-- ==== Sys2Proof/Word.lean ====
section
/-! DEFINITION. The value types of the decoder: every value is an unsigned integer of a stated width (00_scope.md
R7, R9). Bit 0 is the least significant bit (R8), which is `BitVec`'s own numbering. -/

namespace Sys2Proof

/-- An octet of the instruction byte stream, 0..255 (R7, R9). -/
abbrev Byte := BitVec 8

/-- A 3-bit register code: a reg field or an r/m field (R7, R9). -/
abbrev Code3 := BitVec 3

/-- The 2-bit `mod` field of a mode byte (30_encoding.md R88). -/
abbrev Mod2 := BitVec 2

/-- An address of the register lookup ROM, 0..15 (R9; 40_register_rom.md R110). -/
abbrev RegIdx := BitVec 4

/-- A displacement or an immediate after assembly, 0..65535 (R7, R9). -/
abbrev Word16 := BitVec 16

/-- Text of the renderer, as its characters in order (44_renderer.md R210). -/
abbrev Text := List Char

end Sys2Proof
end

