-- ==== Sys2Proof/Config.lean ====
section
/-! DEFINITION. The implementation parameters (00_scope.md R6) as a configuration record with the spec's defaults,
and the free values: what the spec leaves to the environment or leaves OPEN, as opaque constants without a body. -/

namespace Sys2Proof

/-- `EOS_POLICY` (00_scope.md R6; 92_eei_decisions.md D6): what the decoder does after UnexpectedEndOfStream. -/
inductive EosPolicy where
  /-- Enter `HALT_FAULT` and request nothing more: the default. -/
  | abort
  /-- Return to `FETCH`: the named alternative, spelled `continue` in D6. -/
  | resume
deriving DecidableEq, Repr

/-- The two error kinds (60_exceptions.md R230), as the argument of `DIAG_TEXT` (00_scope.md R6). -/
inductive ErrorKind where
  | unsupportedOpcode
  | unexpectedEndOfStream
deriving DecidableEq, Repr

/-- The parameters of 00_scope.md R6, fixed before reset and constant through a run (70_reset_and_hazards.md R261). -/
structure Config where
  /-- `OPC_RR6`: what the opcode byte's bits [7:2] must equal to select format `RM`. -/
  opcRr6 : BitVec 6
  /-- `OPC_IMM4`: what the opcode byte's bits [7:4] must equal to select format `IMM`. -/
  opcImm4 : BitVec 4
  /-- `EMPTY_CALC_TEXT`: the text of a memory operand with no base and no shown displacement. -/
  emptyCalcText : Text
  /-- `EOS_POLICY`. -/
  eosPolicy : EosPolicy
deriving DecidableEq, Repr

/-- The defaults of 00_scope.md R6 (92_eei_decisions.md D1, D2, D5, D6). -/
def Config.default : Config :=
  { opcRr6 := 0b100010#6, opcImm4 := 0b1011#4, emptyCalcText := ['[', ']'], eosPolicy := .abort }

/-- The literal reading of the source's two constants, kept as a named alternative (D1, D2). -/
def Config.literalReading : Config :=
  { Config.default with opcRr6 := 0b001000#6, opcImm4 := 0b0000#4 }

/-- The requirement of 00_scope.md R6: the two formats' sets of opcode bytes are disjoint. -/
abbrev Config.Disjoint (c : Config) : Prop := c.opcRr6.extractLsb' 2 4 ≠ c.opcImm4

/-- FREE VALUE (log entry 3). The octet that the byte source holds at a number which exists (it is below the
stream's length) and which the state does not list: the stream's content is an oracle's (10_state.md R37). -/
opaque Config.streamOctet : Nat → Byte

/-- FREE VALUE (log entry 7). `DIAG_TEXT(kind)`: OPEN, no default (00_scope.md R6; 92_eei_decisions.md D18). -/
opaque Config.diagText : ErrorKind → Text

end Sys2Proof
end

