-- ==== Sys2Proof/Syntax.lean ====
section
/-! DEFINITION. The instructions: one constructor per row of spec/opcode_table.json (30_encoding.md R98). -/

namespace Sys2Proof

/-- An instruction as its fields. `w` is the word flag (R87), `reg` and `rm` are 3-bit codes (R88, R89), `addr`,
`d8`, `d16` and `data` the assembled octets (R90). The direction bit is in the constructor: `movRmReg…` has
`d = 0` (the r/m field is the destination), `movRegRm…` has `d = 1` (R86). -/
inductive Instr where
  /-- `MOV_RM_REG`, register-direct: `mov r/m, reg` with `mod = 11` (42_mov_rm_reg.md R170). -/
  | movRmRegDirect (w : Bool) (reg rm : Code3)
  /-- `MOV_REG_RM`, register-direct: `mov reg, r/m` with `mod = 11` (R171). -/
  | movRegRmDirect (w : Bool) (reg rm : Code3)
  /-- `MOV_RM_REG`, direct address: `mov [addr16], reg`, `mod = 00`, `rm = 110` (R174). -/
  | movRmRegAddr (w : Bool) (reg : Code3) (addr : Word16)
  /-- `MOV_REG_RM`, direct address: `mov reg, [addr16]`, `mod = 00`, `rm = 110` (R175). -/
  | movRegRmAddr (w : Bool) (reg : Code3) (addr : Word16)
  /-- `MOV_RM_REG`, memory without displacement: `mov [bases], reg`, `mod = 00`, `rm != 110` (R172). -/
  | movRmRegMem (w : Bool) (reg rm : Code3)
  /-- `MOV_REG_RM`, memory without displacement: `mov reg, [bases]`, `mod = 00`, `rm != 110` (R173). -/
  | movRegRmMem (w : Bool) (reg rm : Code3)
  /-- `MOV_RM_REG`, memory with 1-octet displacement: `mov [bases + d8], reg`, `mod = 01` (R176). -/
  | movRmRegDisp8 (w : Bool) (reg rm : Code3) (d8 : Byte)
  /-- `MOV_REG_RM`, memory with 1-octet displacement: `mov reg, [bases + d8]`, `mod = 01` (R177). -/
  | movRegRmDisp8 (w : Bool) (reg rm : Code3) (d8 : Byte)
  /-- `MOV_RM_REG`, memory with 2-octet displacement: `mov [bases + d16], reg`, `mod = 10` (R178). -/
  | movRmRegDisp16 (w : Bool) (reg rm : Code3) (d16 : Word16)
  /-- `MOV_REG_RM`, memory with 2-octet displacement: `mov reg, [bases + d16]`, `mod = 10` (R179). -/
  | movRegRmDisp16 (w : Bool) (reg rm : Code3) (d16 : Word16)
  /-- `MOV_REG_IMM`, byte: `mov reg8, imm8` (43_mov_reg_imm.md R200). -/
  | movRegImm8 (reg : Code3) (data : Byte)
  /-- `MOV_REG_IMM`, word: `mov reg16, imm16` (R201). -/
  | movRegImm16 (reg : Code3) (data : Word16)
  /-- `UNSUPPORTED`: a first byte that selects neither format (41_opcode_classifier.md R133). -/
  | unsupported (b : Byte)
deriving DecidableEq, Repr

end Sys2Proof
end

