-- ==== Sys2Proof/WellFormed.lean ====
section
/-! DEFINITION. Which instructions a configuration has an encoding for. A term that is not well-formed names octets
that the decoder reads as another row. -/

namespace Sys2Proof

/-- `i` is an instruction of the decoder under the parameters `c`.
* Memory without displacement excludes `rm = 110`, which is the direct-address row (30_encoding.md R91; R172, R173).
* An immediate form's opcode byte must not select format `RM`, which is tested first (R131). Under the
  disjointness requirement of 00_scope.md R6 this always holds.
* `unsupported b` is for the first bytes that match neither pattern (R133, R93). -/
abbrev Instr.WellFormed (c : Config) : Instr → Bool
  | .movRmRegDirect _ _ _ => true
  | .movRegRmDirect _ _ _ => true
  | .movRmRegAddr _ _ _ => true
  | .movRegRmAddr _ _ _ => true
  | .movRmRegMem _ _ rm => decide (rm ≠ 0b110#3)
  | .movRegRmMem _ _ rm => decide (rm ≠ 0b110#3)
  | .movRmRegDisp8 _ _ _ _ => true
  | .movRegRmDisp8 _ _ _ _ => true
  | .movRmRegDisp16 _ _ _ _ => true
  | .movRegRmDisp16 _ _ _ _ => true
  | .movRegImm8 reg _ => decide ((c.opcImm4 ++ 0#1 ++ reg : BitVec 8).extractLsb' 2 6 ≠ c.opcRr6)
  | .movRegImm16 reg _ => decide ((c.opcImm4 ++ 1#1 ++ reg : BitVec 8).extractLsb' 2 6 ≠ c.opcRr6)
  | .unsupported b => decide (b.extractLsb' 2 6 ≠ c.opcRr6) && decide (b.extractLsb' 4 4 ≠ c.opcImm4)

end Sys2Proof
end

