-- ==== Sys2Proof/Decode.lean ====
section
/-! DEFINITION. The decoder's reading of octets: the classifier, the fields, value assembly, `ndisp`, the decoding of
a list of octets (total, rejecting by name), the encoder, the opcode table, and the table's word numbering. -/

namespace Sys2Proof

/-! ## The classifier (41_opcode_classifier.md R130) -/

/-- The three classes of a first byte. -/
inductive OpClass where
  | rm
  | imm
  | unsupported
deriving DecidableEq, Repr

/-- `classify(b)`: `RM` is tested first, `IMM` second, "First match wins" (R130, R131). -/
def classify (c : Config) (b : Byte) : OpClass :=
  if b.extractLsb' 2 6 = c.opcRr6 then .rm
  else if b.extractLsb' 4 4 = c.opcImm4 then .imm
  else .unsupported

/-! ## Fields (30_encoding.md R86 to R89) -/

/-- `d = opc[1]`, the direction bit of format `RM` (R86). -/
def opcD (opc : Byte) : Bool := opc.getLsbD 1

/-- `w = opc[0]`, the word flag of format `RM` (R87). -/
def opcW (opc : Byte) : Bool := opc.getLsbD 0

/-- `w = opc[3]`, the word flag of format `IMM` (R87). -/
def immW (opc : Byte) : Bool := opc.getLsbD 3

/-- `reg = opc[2:0]`, the register code of format `IMM` (R89). -/
def immReg (opc : Byte) : Code3 := opc.extractLsb' 0 3

/-- `mod = modb[7:6]` (R88). -/
def modField (modb : Byte) : Mod2 := modb.extractLsb' 6 2

/-- `reg = modb[5:3]` (R88). -/
def regField (modb : Byte) : Code3 := modb.extractLsb' 3 3

/-- `rm = modb[2:0]` (R88). -/
def rmField (modb : Byte) : Code3 := modb.extractLsb' 0 3

/-! ## Value assembly and lengths (30_encoding.md R84, R90, R91) -/

/-- A 1-octet value: `zext_16(lo)`, never sign-extended (R90; 42_mov_rm_reg.md R156). -/
def zext16 (lo : Byte) : Word16 := lo.zeroExtend 16

/-- A 2-octet value: `hi:lo`, little-endian (R90; 20_memory.md R54). -/
def hiLo (hi lo : Byte) : Word16 := hi ++ lo

/-- Bits [7:0] of a value: the octet that comes first in the stream (R54). -/
def lowOctet (v : Word16) : Byte := v.extractLsb' 0 8

/-- Bits [15:8] of a value: the octet that comes second in the stream (R54). -/
def highOctet (v : Word16) : Byte := v.extractLsb' 8 8

/-- `direct(mod, rm)`: the direct-address case (R91). -/
def isDirect (mod : Mod2) (rm : Code3) : Bool := decide (mod = 0b00#2) && decide (rm = 0b110#3)

/-- `ndisp(mod, rm)`: the number of displacement octets of format `RM` (R91). -/
def ndisp (mod : Mod2) (rm : Code3) : Nat :=
  if mod = 0b11#2 then 0
  else if mod = 0b01#2 then 1
  else if mod = 0b10#2 then 2
  else if rm = 0b110#3 then 2
  else 0

/-! ## Encoding (30_encoding.md R81, R82) -/

/-- Byte 0 of format `RM`: `OPC_RR6 d w` (R81). -/
def rmOpcode (c : Config) (d w : Bool) : Byte := c.opcRr6 ++ BitVec.ofBool d ++ BitVec.ofBool w

/-- Byte 1 of format `RM`: `mod reg rm` (R81). -/
def modeByte (mod : Mod2) (reg rm : Code3) : Byte := mod ++ reg ++ rm

/-- Byte 0 of format `IMM`: `OPC_IMM4 w reg` (R82). -/
def immOpcode (c : Config) (w : Bool) (reg : Code3) : Byte := c.opcImm4 ++ BitVec.ofBool w ++ reg

/-- The octets of an instruction in stream order (R80 to R82). -/
def encode (c : Config) : Instr → List Byte
  | .movRmRegDirect w reg rm => [rmOpcode c false w, modeByte 0b11#2 reg rm]
  | .movRegRmDirect w reg rm => [rmOpcode c true w, modeByte 0b11#2 reg rm]
  | .movRmRegAddr w reg a => [rmOpcode c false w, modeByte 0b00#2 reg 0b110#3, lowOctet a, highOctet a]
  | .movRegRmAddr w reg a => [rmOpcode c true w, modeByte 0b00#2 reg 0b110#3, lowOctet a, highOctet a]
  | .movRmRegMem w reg rm => [rmOpcode c false w, modeByte 0b00#2 reg rm]
  | .movRegRmMem w reg rm => [rmOpcode c true w, modeByte 0b00#2 reg rm]
  | .movRmRegDisp8 w reg rm d => [rmOpcode c false w, modeByte 0b01#2 reg rm, d]
  | .movRegRmDisp8 w reg rm d => [rmOpcode c true w, modeByte 0b01#2 reg rm, d]
  | .movRmRegDisp16 w reg rm d => [rmOpcode c false w, modeByte 0b10#2 reg rm, lowOctet d, highOctet d]
  | .movRegRmDisp16 w reg rm d => [rmOpcode c true w, modeByte 0b10#2 reg rm, lowOctet d, highOctet d]
  | .movRegImm8 reg v => [immOpcode c false reg, v]
  | .movRegImm16 reg v => [immOpcode c true reg, lowOctet v, highOctet v]
  | .unsupported b => [b]

/-- The length of an instruction in octets (R84); a decode attempt that raises UnsupportedOpcode consumes 1. -/
def Instr.size : Instr → Nat
  | .movRmRegDirect _ _ _ => 2
  | .movRegRmDirect _ _ _ => 2
  | .movRmRegAddr _ _ _ => 4
  | .movRegRmAddr _ _ _ => 4
  | .movRmRegMem _ _ _ => 2
  | .movRegRmMem _ _ _ => 2
  | .movRmRegDisp8 _ _ _ _ => 3
  | .movRegRmDisp8 _ _ _ _ => 3
  | .movRmRegDisp16 _ _ _ _ => 4
  | .movRegRmDisp16 _ _ _ _ => 4
  | .movRegImm8 _ _ => 2
  | .movRegImm16 _ _ => 3
  | .unsupported _ => 1

/-- The longest instruction, in octets (R84). -/
def maxSize : Nat := 4

/-- The class of an instruction's first byte (R80, R133). -/
def Instr.opClass : Instr → OpClass
  | .movRmRegDirect _ _ _ => .rm
  | .movRegRmDirect _ _ _ => .rm
  | .movRmRegAddr _ _ _ => .rm
  | .movRegRmAddr _ _ _ => .rm
  | .movRmRegMem _ _ _ => .rm
  | .movRegRmMem _ _ _ => .rm
  | .movRmRegDisp8 _ _ _ _ => .rm
  | .movRegRmDisp8 _ _ _ _ => .rm
  | .movRmRegDisp16 _ _ _ _ => .rm
  | .movRegRmDisp16 _ _ _ _ => .rm
  | .movRegImm8 _ _ => .imm
  | .movRegImm16 _ _ => .imm
  | .unsupported _ => .unsupported

/-- `i` is one of the two encodings of `mov`, not the catch-all row. -/
def Instr.isSupported (i : Instr) : Bool := decide (i.opClass ≠ .unsupported)

/-! ## Decoding (42_mov_rm_reg.md R150; 43_mov_reg_imm.md R190; 41_opcode_classifier.md R141) -/

/-- What a decode attempt finds in the octets that lie ahead. -/
inductive DecodeResult where
  /-- An instruction, and the octets left over. -/
  | ok (i : Instr) (rest : List Byte)
  /-- No octet at all: top-level end-of-stream, "not an error" (60_exceptions.md R233). -/
  | endOfStream
  /-- The octets end inside an instruction: UnexpectedEndOfStream (R232). -/
  | truncated
deriving DecidableEq, Repr

/-- The row of format `RM` with `ndisp = 0` that `d`, `mod` selects. -/
def rmNoDisp (d w : Bool) (mod : Mod2) (reg rm : Code3) : Instr :=
  match decide (mod = 0b11#2), d with
  | true, false => .movRmRegDirect w reg rm
  | true, true => .movRegRmDirect w reg rm
  | false, false => .movRmRegMem w reg rm
  | false, true => .movRegRmMem w reg rm

/-- The row of format `RM` with `ndisp = 1`. -/
def rmDisp8 (d w : Bool) (reg rm : Code3) (v : Byte) : Instr :=
  match d with
  | false => .movRmRegDisp8 w reg rm v
  | true => .movRegRmDisp8 w reg rm v

/-- The row of format `RM` with `ndisp = 2` that `d` and the direct-address case select. -/
def rmTwoOctets (d w : Bool) (mod : Mod2) (reg rm : Code3) (v : Word16) : Instr :=
  match isDirect mod rm, d with
  | true, false => .movRmRegAddr w reg v
  | true, true => .movRegRmAddr w reg v
  | false, false => .movRmRegDisp16 w reg rm v
  | false, true => .movRegRmDisp16 w reg rm v

/-- `decode_rm(opc)` on the octets after the opcode byte (R150). -/
def decodeRm (opc : Byte) : List Byte → DecodeResult
  | [] => .truncated
  | m :: bs =>
    match ndisp (modField m) (rmField m) with
    | 0 => .ok (rmNoDisp (opcD opc) (opcW opc) (modField m) (regField m) (rmField m)) bs
    | 1 =>
      match bs with
      | l :: rest => .ok (rmDisp8 (opcD opc) (opcW opc) (regField m) (rmField m) l) rest
      | [] => .truncated
    | _ =>
      match bs with
      | l :: h :: rest =>
        .ok (rmTwoOctets (opcD opc) (opcW opc) (modField m) (regField m) (rmField m) (hiLo h l)) rest
      | _ => .truncated

/-- `decode_imm(opc)` on the octets after the opcode byte (R190). -/
def decodeImm (opc : Byte) (bs : List Byte) : DecodeResult :=
  match immW opc with
  | false =>
    match bs with
    | l :: rest => .ok (.movRegImm8 (immReg opc) l) rest
    | [] => .truncated
  | true =>
    match bs with
    | l :: h :: rest => .ok (.movRegImm16 (immReg opc) (hiLo h l)) rest
    | _ => .truncated

/-- One decode attempt over the octets that lie ahead (R141). -/
def decode (c : Config) : List Byte → DecodeResult
  | [] => .endOfStream
  | b :: bs =>
    match classify c b with
    | .rm => decodeRm b bs
    | .imm => decodeImm b bs
    | .unsupported => .ok (.unsupported b) bs

/-! ## The opcode table (30_encoding.md R98) -/

/-- The 13 rows' forms. -/
inductive Form where
  | rmRegDirect | regRmDirect | rmRegAddr | regRmAddr | rmRegMem | regRmMem
  | rmRegDisp8 | regRmDisp8 | rmRegDisp16 | regRmDisp16 | regImm8 | regImm16 | unsupported
deriving DecidableEq, Repr

/-- The row an instruction belongs to. -/
def Instr.form : Instr → Form
  | .movRmRegDirect _ _ _ => .rmRegDirect
  | .movRegRmDirect _ _ _ => .regRmDirect
  | .movRmRegAddr _ _ _ => .rmRegAddr
  | .movRegRmAddr _ _ _ => .regRmAddr
  | .movRmRegMem _ _ _ => .rmRegMem
  | .movRegRmMem _ _ _ => .regRmMem
  | .movRmRegDisp8 _ _ _ _ => .rmRegDisp8
  | .movRegRmDisp8 _ _ _ _ => .regRmDisp8
  | .movRmRegDisp16 _ _ _ _ => .rmRegDisp16
  | .movRegRmDisp16 _ _ _ _ => .regRmDisp16
  | .movRegImm8 _ _ => .regImm8
  | .movRegImm16 _ _ => .regImm16
  | .unsupported _ => .unsupported

/-- A row: `match` and `mask` over the first two octets (byte 0 in bits [15:8]), the form and its length. -/
structure TableRow where
  value : BitVec 16
  mask : BitVec 16
  form : Form
  length : Nat
deriving DecidableEq, Repr

/-- The rows in the table's order, for the default parameters (R98). -/
def opcodeTable : List TableRow :=
  [ ⟨0x88C0#16, 0xFEC0#16, .rmRegDirect, 2⟩,
    ⟨0x8AC0#16, 0xFEC0#16, .regRmDirect, 2⟩,
    ⟨0x8806#16, 0xFEC7#16, .rmRegAddr, 4⟩,
    ⟨0x8A06#16, 0xFEC7#16, .regRmAddr, 4⟩,
    ⟨0x8800#16, 0xFEC0#16, .rmRegMem, 2⟩,
    ⟨0x8A00#16, 0xFEC0#16, .regRmMem, 2⟩,
    ⟨0x8840#16, 0xFEC0#16, .rmRegDisp8, 3⟩,
    ⟨0x8A40#16, 0xFEC0#16, .regRmDisp8, 3⟩,
    ⟨0x8880#16, 0xFEC0#16, .rmRegDisp16, 4⟩,
    ⟨0x8A80#16, 0xFEC0#16, .regRmDisp16, 4⟩,
    ⟨0xB000#16, 0xF800#16, .regImm8, 2⟩,
    ⟨0xB800#16, 0xF800#16, .regImm16, 3⟩,
    ⟨0x0000#16, 0x0000#16, .unsupported, 1⟩ ]

/-- The row does not look at byte 1: its "mask has a zero low byte" (R98). -/
def TableRow.byte0Only (r : TableRow) : Bool := decide (r.mask.extractLsb' 0 8 = 0#8)

/-- A row matches when `(byte0:byte1) & mask = match` (R98). Byte 1 "need not exist to match" a row that does not look
at it; where it does not exist no other row matches. -/
def TableRow.fits (r : TableRow) (b0 : Byte) : Option Byte → Bool
  | some b1 => decide ((b0 ++ b1 : BitVec 16) &&& r.mask = r.value)
  | none => r.byte0Only && decide ((b0 ++ 0#8 : BitVec 16) &&& r.mask = r.value)

/-- "Rows are tried in order and the first match wins" (R98), on byte 0 and, where there is one, byte 1. -/
def tableLookup (b0 : Byte) (b1 : Option Byte) : Option TableRow := opcodeTable.find? (fun r => r.fits b0 b1)

/-! ## The table's word numbering -/

/-- The four octets that a table word stands for. The table numbers the first two octets as one 16-bit word with
byte 0 in bits [15:8] (R98), and a row of at most 8 bits is byte 0 alone. The table names no bit above 15: octet 2
is read from bits [23:16] and octet 3 from bits [31:24] (DESIGN CHOICE, log entry 9; unsafe: nothing in the
spec fixes it). Bits at or above `nbits` are 0. -/
def tableOctets (nbits w : Nat) : List Byte :=
  let v := w % 2 ^ nbits
  if nbits ≤ 8 then [BitVec.ofNat 8 v, 0#8, 0#8, 0#8]
  else [BitVec.ofNat 8 (v / 256), BitVec.ofNat 8 v, BitVec.ofNat 8 (v / 65536), BitVec.ofNat 8 (v / 16777216)]

/-- What the decoder reads, under the default parameters, from an instruction whose bits are `w` as
spec/opcode_table.json numbers them. -/
def decodeTableWord (nbits w : Nat) : Option Instr :=
  match decode Config.default (tableOctets nbits w) with
  | .ok i _ => some i
  | .endOfStream => none
  | .truncated => none

end Sys2Proof
end

