-- ==== Sys2Proof/Machine/State.lean ====
section
/-! DEFINITION. The state of the decoder as plain data (10_state.md R21), the values it produces (R28 to R32), the
byte source as the environment's data (20_memory.md R50), the reasons a step can stop, and the state after reset. -/

namespace Sys2Proof.Machine

/-! ## Produced values (10_state.md R28 to R32) -/

/-- The 16 register names, in the order of the register lookup ROM (40_register_rom.md R110). -/
inductive RegName where
  | al | cl | dl | bl | ah | ch | dh | bh
  | ax | cx | dx | bx | sp | bp | si | di
deriving DecidableEq, Repr

/-- An operand: "a tagged variant, one of" three (R28). Registers are ROM addresses. -/
inductive Operand where
  /-- `REG(n)`. -/
  | reg (n : RegIdx)
  /-- `IMM(v)`. -/
  | imm (v : Word16)
  /-- `MEM(bases, disp)`: base and index names in order, and the shown displacement. -/
  | mem (bases : List RegIdx) (disp : Option Word16)
deriving DecidableEq, Repr

/-- "currently always the move mnemonic" (R30). -/
inductive Mnemonic where
  | mov
deriving DecidableEq, Repr

/-- An `Instruction` (R30): `op1` is the destination and `op2` the source. -/
structure Instruction where
  mnemonic : Mnemonic
  op1 : Operand
  op2 : Operand
deriving DecidableEq, Repr

/-- The events of R32. -/
inductive Event where
  /-- `INSTR(i)`: an instruction was decoded whole. -/
  | instr (i : Instruction)
  /-- `ERR_UNSUPPORTED(b)`: UnsupportedOpcode was raised for the first byte `b`. -/
  | errUnsupported (b : Byte)
  /-- `ERR_EOS`: UnexpectedEndOfStream was raised. -/
  | errEos
  /-- `END`: top-level end-of-stream. -/
  | endOfRun
deriving DecidableEq, Repr

/-! ## The byte source -/

/-- The octets of the stream that the state lists, by octet number (10_state.md R26: the first octet is number 0),
in one canonical form: octet numbers strictly rising. What an unlisted number reads as is `ByteSource.octet`'s. -/
abbrev Memory := List Host.Cell

/-- The canonical form of a memory. -/
abbrev Memory.wf (m : Memory) : Prop := m.Pairwise (fun a b => a.1 < b.1)

/-- The byte source with its stream (20_memory.md R50): `length` is `some L` for a finite stream of `L` octets and
`none` for an endless one (R65). `ended` says that it has answered `EOS` (the model's own field, log entry 4). -/
structure ByteSource where
  octets : Memory
  length : Option Nat
  ended : Bool
deriving DecidableEq, Repr

/-! ## The machine -/

/-- `st`: where in an instruction the decoder is (R23). -/
inductive SeqState where
  /-- `FETCH`: between instructions, about to read a first byte. -/
  | fetch
  /-- `MODE`: format `RM`, opcode byte latched. -/
  | mode
  /-- `DISP_LO`: format `RM`, mode byte latched, displacement present. -/
  | dispLo
  /-- `DISP_HI`: format `RM`, 2-octet displacement, low octet latched. -/
  | dispHi
  /-- `IMM_LO`: format `IMM`, opcode byte latched. -/
  | immLo
  /-- `IMM_HI`: format `IMM`, word size, low octet latched. -/
  | immHi
  /-- `HALT_END`: terminal, top-level end-of-stream was seen. -/
  | haltEnd
  /-- `HALT_FAULT`: terminal, UnexpectedEndOfStream was raised. -/
  | haltFault
deriving DecidableEq, Repr

/-- The 3-bit codes of R23. -/
def SeqState.code : SeqState → BitVec 3
  | .fetch => 0#3
  | .mode => 1#3
  | .dispLo => 2#3
  | .dispHi => 3#3
  | .immLo => 4#3
  | .immHi => 5#3
  | .haltEnd => 6#3
  | .haltFault => 7#3

/-- The state: the six items of R21, the observation state `pos` (R26) and trace (R32), and the run's two
parameters that the environment fixes, the configuration (00_scope.md R6, log entry 5) and the byte stream
(R37, log entries 2 and 3). -/
structure State where
  /-- The parameters of the run. No step changes them (70_reset_and_hazards.md R261). -/
  cfg : Config
  /-- `st`, 3 bits. -/
  st : SeqState
  /-- `opc`, the opcode byte of the instruction being decoded. -/
  opc : Byte
  /-- `modb`, the mode byte of the instruction being decoded. -/
  modb : Byte
  /-- `lo`, the low octet of a 2-octet displacement or immediate. -/
  lo : Byte
  /-- `unsup_seen`, sticky: an UnsupportedOpcode error has been raised since reset (R24). -/
  unsupSeen : Bool
  /-- `eos_fault`, sticky: an UnexpectedEndOfStream error has been raised since reset (R24). -/
  eosFault : Bool
  /-- `pos`, the number of octets the byte source has handed out since reset (R26). -/
  pos : Nat
  /-- The trace: the events so far, oldest first (R32). -/
  trace : List Event
  /-- The byte source and its stream (20_memory.md R50). -/
  source : ByteSource
deriving DecidableEq, Repr

/-- The reasons a step faults. -/
inductive Fault where
  /-- Raised by `step` and `octetStep` in `HALT_END`, which has "no step" (41_opcode_classifier.md R140). It is the
  good end of a run (60_exceptions.md R242), a fault only because a step that does not exist is no next state.
  Safe: the model stops where the decoder makes no further request. -/
  | haltEnd
  /-- Raised by `step` and `octetStep` in `HALT_FAULT`, which has "no step" (R140) and is never a good end (R239).
  Safe: the model stops where the decoder makes no further request. -/
  | haltFault
deriving DecidableEq, Repr

/-- The reasons a step is refused. -/
inductive Refusal where
  /-- Raised by `exec`'s arm of an instruction that has no meaning yet; no arm is refused in this model. Safe. -/
  | notModelled (mnemonic : String)
  /-- Raised by `step` and `octetStep` when the byte source would be asked again after it has answered `EOS`
  (20_memory.md R52; 93_implementation_defined.md U7: `refuse`). Under `EOS_POLICY = abort` no run gets there.
  Safe: the spec does not say what the source would answer. -/
  | requestAfterEos
deriving DecidableEq, Repr

/-- The byte source at reset: nothing listed, length 0 (DESIGN CHOICE, log entry 2; unsafe: the spec leaves the
stream to the environment, so nothing about a real stream follows from the run from `State.reset`). -/
def ByteSource.empty : ByteSource := { octets := [], length := some 0, ended := false }

/-- The state right after reset with parameters `c` and the byte source `src` attached (10_state.md R38;
70_reset_and_hazards.md R260, R262). The latches are "unspecified" there; 0 is the model's (DESIGN CHOICE, log
entry 1; unsafe: a proof could lean on the zero, although no step from `FETCH` reads a latch before writing it). -/
def State.start (c : Config) (src : ByteSource) : State :=
  { cfg := c, st := .fetch, opc := 0#8, modb := 0#8, lo := 0#8, unsupSeen := false, eosFault := false,
    pos := 0, trace := [], source := src }

/-- The state right after reset: the defaults of 00_scope.md R6 and the empty byte source. -/
def State.reset : State := State.start Config.default ByteSource.empty

end Sys2Proof.Machine
end

