-- ==== Sys2Proof/Machine/Flags.lean ====
section
/-! DEFINITION. The flags. The decoder has no condition codes and no instruction is given any effect on the 8086's
flags (10_state.md R27); the decode flags `d` and `w` are wires, in Decode.lean (R86, R87). What is stored is the
two sticky status flags of R24. -/

namespace Sys2Proof.Machine

/-- `unsup_seen <- 1` (60_exceptions.md R236). -/
def State.setUnsupSeen (s : State) : State := { s with unsupSeen := true }

/-- `eos_fault <- 1` (60_exceptions.md R236). -/
def State.setEosFault (s : State) : State := { s with eosFault := true }

end Sys2Proof.Machine
end

