-- ==== Sys2Proof/Machine/Ops.lean ====
section
/-! DEFINITION. The named operations: the byte source's memory, `NextOctet()`, the latches, the cursor, events, and
taking an error (60_exceptions.md R236). -/

namespace Sys2Proof.Machine

/-! ## The stream -/

/-- The listed octet of a number, if any. -/
def Memory.read : Memory → Nat → Option Byte
  | [], _ => none
  | (k, b) :: rest, n => if k = n then some b else Memory.read rest n

/-- Lists the octet `b` at number `n`, in place of what was listed there, keeping the numbers rising. -/
def Memory.insert : Memory → Nat → Byte → Memory
  | [], n, b => [(n, b)]
  | (k, x) :: rest, n, b =>
    if n < k then (n, b) :: (k, x) :: rest
    else if n = k then (n, b) :: rest
    else (k, x) :: Memory.insert rest n b

/-- Lists the octets `bs` at the numbers from `n` on. -/
def Memory.insertAll : Memory → Nat → List Byte → Memory
  | m, _, [] => m
  | m, n, b :: bs => Memory.insertAll (m.insert n b) (n + 1) bs

/-- Octet number `n` exists: it is below the length, or the stream is endless (20_memory.md R50, R65). -/
def ByteSource.has (src : ByteSource) (n : Nat) : Bool :=
  match src.length with
  | some l => decide (n < l)
  | none => true

/-- Octet number `n` of the stream, `none` where there is none: the listed octet, and for a number that exists and
is not listed the environment's octet, a free value (log entry 3). -/
def ByteSource.octet (src : ByteSource) (n : Nat) : Option Byte :=
  if src.has n then some ((src.octets.read n).getD (Config.streamOctet n)) else none

/-- The canonical form of a byte source: rising octet numbers, none at or beyond the length. -/
def ByteSource.wf (src : ByteSource) : Bool :=
  decide src.octets.wf &&
    match src.length with
    | some l => src.octets.all (fun c => decide (c.1 < l))
    | none => true

/-- The octets at the numbers from `n` on, at most `k` of them, as far as the stream goes. -/
def ByteSource.window (src : ByteSource) : Nat → Nat → List Byte
  | _, 0 => []
  | n, k + 1 =>
    match src.octet n with
    | none => []
    | some b => b :: src.window (n + 1) k

/-- The environment's load: the octets `bs` at the numbers from `n` on, the stream as long as that needs, and no
`EOS` answered yet. The decoder itself writes nothing (20_memory.md R57). -/
def ByteSource.load (src : ByteSource) (n : Nat) (bs : List Byte) : ByteSource :=
  { octets := src.octets.insertAll n bs,
    length := src.length.map (fun l => max l (n + bs.length)),
    ended := false }

/-- A byte source that holds exactly the octets `bs` and then ends. -/
def ByteSource.ofList (bs : List Byte) : ByteSource :=
  { octets := Memory.insertAll [] 0 bs, length := some bs.length, ended := false }

/-! ## `NextOctet()` (20_memory.md R50) -/

/-- The byte source's answer. -/
inductive Answer where
  | byte (b : Byte)
  | eos
deriving DecidableEq, Repr

/-- `pos <- pos + n`: the cursor moves past `n` octets handed out (10_state.md R26). -/
def State.advance (s : State) (n : Nat) : State := { s with pos := s.pos + n }

/-- The source has answered `EOS`; the cursor stays (R50). -/
def State.markEnded (s : State) : State := { s with source := { s.source with ended := true } }

/-- `NextOctet()`: `byte s[pos]` and the cursor one further, or `EOS` and the cursor unchanged. -/
def nextOctet (s : State) : Answer × State :=
  match s.source.octet s.pos with
  | some b => (.byte b, s.advance 1)
  | none => (.eos, s.markEnded)

/-- The octets that lie ahead of the cursor, as many as the longest instruction has. The decoder never looks at an
octet it does not consume (R63): that the octets after the instruction do not matter is a claim about `decode`. -/
def fetchOctets (s : State) : List Byte := s.source.window s.pos maxSize

/-! ## Latches, sequencing state and events -/

/-- `opc <- b` (10_state.md R22). -/
def State.latchOpc (s : State) (b : Byte) : State := { s with opc := b }

/-- `modb <- b` (R22). -/
def State.latchModb (s : State) (b : Byte) : State := { s with modb := b }

/-- `lo <- b` (R22). -/
def State.latchLo (s : State) (b : Byte) : State := { s with lo := b }

/-- `st <- q` (R23). -/
def State.goto (s : State) (q : SeqState) : State := { s with st := q }

/-- `emit e`: append an event to the trace (00_scope.md R10; R32). -/
def State.emit (s : State) (e : Event) : State := { s with trace := s.trace ++ [e] }

/-- An instruction is decoded whole: `emit INSTR(i)`, `st <- FETCH` (41_opcode_classifier.md R140). -/
def State.complete (s : State) (i : Instruction) : State := (s.emit (.instr i)).goto .fetch

/-! ## Taking an error (60_exceptions.md R236). There is no handler and no return (R238). -/

/-- `raise UnsupportedOpcode(b)`: the latches and the cursor are unchanged, the next octet is a first byte. -/
def raiseUnsupported (b : Byte) (s : State) : State :=
  ((s.emit (.errUnsupported b)).setUnsupSeen).goto .fetch

/-- Where UnexpectedEndOfStream leads under the policy (92_eei_decisions.md D6). -/
def eosTarget : EosPolicy → SeqState
  | .abort => .haltFault
  | .resume => .fetch

/-- `raise UnexpectedEndOfStream`: the latches and the cursor are unchanged. -/
def raiseEos (s : State) : State :=
  ((s.emit .errEos).setEosFault).goto (eosTarget s.cfg.eosPolicy)

/-- Top-level end-of-stream, not an error: `emit END`, `st <- HALT_END` (R233). -/
def topLevelEnd (s : State) : State := (s.emit .endOfRun).goto .haltEnd

end Sys2Proof.Machine
end

