-- ==== Sys2Proof/Machine/Operands.lean ====
section
/-! DEFINITION. The register lookup ROM (40_register_rom.md) and the operand extractor's pieces: `regidx`, the
base/index table, the shown displacement, the operands, `build_rm` and `build_imm`. All are pure. -/

namespace Sys2Proof.Machine

/-! ## The register lookup ROM -/

/-- The 16 entries in address order (R110). -/
def romTable : List RegName :=
  [.al, .cl, .dl, .bl, .ah, .ch, .dh, .bh, .ax, .cx, .dx, .bx, .sp, .bp, .si, .di]

/-- `ROM[i]`: total, since an address has 4 bits (R112, R113, R115). -/
def rom (i : RegIdx) : RegName := romTable[i.toNat]'i.isLt

/-- `regidx(code, wide) = code + 8*wide`, "equivalently the 4 bits `{wide, code[2:0]}`" (R111, R112). -/
def regIdx (code : Code3) (wide : Bool) : RegIdx := BitVec.ofBool wide ++ code

/-- `regname(code, wide) = ROM[regidx(code, wide)]` (R111). -/
def regName (code : Code3) (wide : Bool) : RegName := rom (regIdx code wide)

/-! ## Operands of format `RM` -/

/-- `bases(rm)` when not the direct-address case: `bx` is 11, `bp` 13, `si` 14, `di` 15 (42_mov_rm_reg.md R158). -/
def bases (rm : Code3) : List RegIdx :=
  if rm = 0b000#3 then [11#4, 14#4]
  else if rm = 0b001#3 then [11#4, 15#4]
  else if rm = 0b010#3 then [13#4, 14#4]
  else if rm = 0b011#3 then [13#4, 15#4]
  else if rm = 0b100#3 then [14#4]
  else if rm = 0b101#3 then [15#4]
  else if rm = 0b110#3 then [13#4]
  else [11#4]

/-- `bases_of(mod, rm)`: no base in the direct-address case (R158). -/
def basesOf (mod : Mod2) (rm : Code3) : List RegIdx := if isDirect mod rm then [] else bases rm

/-- `shown(dv)`: "append the displacement literal to the calculation only if it is present and non-zero" (R159). -/
def shown : Option Word16 → Option Word16
  | none => none
  | some v => if v = 0#16 then none else some v

/-- The reg field's operand (R161). -/
def regOperand (reg : Code3) (w : Bool) : Operand := .reg (regIdx reg w)

/-- The r/m field's operand: a register in register-direct mode (R160), else a memory operand (R158, R159). -/
def rmOperand (mod : Mod2) (rm : Code3) (w : Bool) (dv : Option Word16) : Operand :=
  if mod = 0b11#2 then .reg (regIdx rm w) else .mem (basesOf mod rm) (shown dv)

/-- Destination first: the operands are swapped when `d = 1` (R162). -/
def orderOperands (d : Bool) (rmop regop : Operand) : Instruction :=
  if d then ⟨.mov, regop, rmop⟩ else ⟨.mov, rmop, regop⟩

/-- `build_rm(opc, modb, dv)` (R163). -/
def buildRm (opc modb : Byte) (dv : Option Word16) : Instruction :=
  orderOperands (opcD opc) (rmOperand (modField modb) (rmField modb) (opcW opc) dv)
    (regOperand (regField modb) (opcW opc))

/-- `build_imm(opc, v)` (43_mov_reg_imm.md R195). -/
def buildImm (opc : Byte) (v : Word16) : Instruction :=
  ⟨.mov, .reg (regIdx (immReg opc) (immW opc)), .imm v⟩

/-! ## Optional binary forms -/

/-- The ROM word: the name's two ASCII characters, the first in bits [15:8] (40_register_rom.md R110, R116). -/
def RegName.asciiWord : RegName → BitVec 16
  | .al => 0x616C#16 | .cl => 0x636C#16 | .dl => 0x646C#16 | .bl => 0x626C#16
  | .ah => 0x6168#16 | .ch => 0x6368#16 | .dh => 0x6468#16 | .bh => 0x6268#16
  | .ax => 0x6178#16 | .cx => 0x6378#16 | .dx => 0x6478#16 | .bx => 0x6278#16
  | .sp => 0x7370#16 | .bp => 0x6270#16 | .si => 0x7369#16 | .di => 0x6469#16

end Sys2Proof.Machine
end

