-- ==== Sys2Proof/Machine/MovImm.lean ====
section
/-! DEFINITION. Format `IMM`: `MOV_REG_IMM` in its two sizes (43_mov_reg_imm.md R200, R201). The register is always
the destination (R194); the value is unsigned and a zero is kept (R193). No flag is written (R190). -/

namespace Sys2Proof.Machine

/-- `mov reg8, imm8` (R200): 2 octets; only the opcode byte is latched (41_opcode_classifier.md R140). -/
def execMovRegImm8 (reg : Code3) (data : Byte) (s : State) : Host.Outcome State Fault Refusal :=
  .next (((s.advance 2).latchOpc (immOpcode s.cfg false reg)).complete
    ⟨.mov, .reg (regIdx reg false), .imm (zext16 data)⟩)

/-- `mov reg16, imm16` (R201): 3 octets; the data's low octet is latched on the way to `IMM_HI` (R140). -/
def execMovRegImm16 (reg : Code3) (data : Word16) (s : State) : Host.Outcome State Fault Refusal :=
  .next ((((s.advance 3).latchOpc (immOpcode s.cfg true reg)).latchLo (lowOctet data)).complete
    ⟨.mov, .reg (regIdx reg true), .imm data⟩)

end Sys2Proof.Machine
end

