-- ==== Sys2Proof/Machine/MovRm.lean ====
section
/-! DEFINITION. Format `RM`: `MOV_RM_REG` and `MOV_REG_RM` in their five addressing classes, one meaning per row
(42_mov_rm_reg.md R170 to R179). Each consumes its octets, latches the opcode byte and the mode byte, and the low
octet where the displacement has two (41_opcode_classifier.md R140), and emits its `Instruction`. No flag is
written and no register or data memory is touched (R150, R165). -/

namespace Sys2Proof.Machine

/-- The effect every `RM` row without a 2-octet displacement shares: `size` octets consumed, the opcode and the mode
byte latched, the event emitted. `lo` is latched only on the way to `DISP_HI` (R140). -/
def completeRm (size : Nat) (opcode mode : Byte) (i : Instruction) (s : State) : State :=
  (((s.advance size).latchOpc opcode).latchModb mode).complete i

/-- The effect every `RM` row with a 2-octet displacement shares: its low octet is latched too. -/
def completeRmLo (opcode mode low : Byte) (i : Instruction) (s : State) : State :=
  ((((s.advance 4).latchOpc opcode).latchModb mode).latchLo low).complete i

/-- `mov r/m, reg`, register-direct (R170). -/
def execMovRmRegDirect (w : Bool) (reg rm : Code3) (s : State) : Host.Outcome State Fault Refusal :=
  .next (completeRm 2 (rmOpcode s.cfg false w) (modeByte 0b11#2 reg rm)
    ⟨.mov, .reg (regIdx rm w), .reg (regIdx reg w)⟩ s)

/-- `mov reg, r/m`, register-direct (R171). -/
def execMovRegRmDirect (w : Bool) (reg rm : Code3) (s : State) : Host.Outcome State Fault Refusal :=
  .next (completeRm 2 (rmOpcode s.cfg true w) (modeByte 0b11#2 reg rm)
    ⟨.mov, .reg (regIdx reg w), .reg (regIdx rm w)⟩ s)

/-- `mov [addr16], reg`, direct address: no base register (R174). -/
def execMovRmRegAddr (w : Bool) (reg : Code3) (addr : Word16) (s : State) : Host.Outcome State Fault Refusal :=
  .next (completeRmLo (rmOpcode s.cfg false w) (modeByte 0b00#2 reg 0b110#3) (lowOctet addr)
    ⟨.mov, .mem [] (shown (some addr)), .reg (regIdx reg w)⟩ s)

/-- `mov reg, [addr16]`, direct address: no base register (R175). -/
def execMovRegRmAddr (w : Bool) (reg : Code3) (addr : Word16) (s : State) : Host.Outcome State Fault Refusal :=
  .next (completeRmLo (rmOpcode s.cfg true w) (modeByte 0b00#2 reg 0b110#3) (lowOctet addr)
    ⟨.mov, .reg (regIdx reg w), .mem [] (shown (some addr))⟩ s)

/-- `mov [bases], reg`, memory without displacement (R172). -/
def execMovRmRegMem (w : Bool) (reg rm : Code3) (s : State) : Host.Outcome State Fault Refusal :=
  .next (completeRm 2 (rmOpcode s.cfg false w) (modeByte 0b00#2 reg rm)
    ⟨.mov, .mem (bases rm) none, .reg (regIdx reg w)⟩ s)

/-- `mov reg, [bases]`, memory without displacement (R173). -/
def execMovRegRmMem (w : Bool) (reg rm : Code3) (s : State) : Host.Outcome State Fault Refusal :=
  .next (completeRm 2 (rmOpcode s.cfg true w) (modeByte 0b00#2 reg rm)
    ⟨.mov, .reg (regIdx reg w), .mem (bases rm) none⟩ s)

/-- `mov [bases + d8], reg`: the displacement is the octet's unsigned value (R176, R156). -/
def execMovRmRegDisp8 (w : Bool) (reg rm : Code3) (d8 : Byte) (s : State) : Host.Outcome State Fault Refusal :=
  .next (completeRm 3 (rmOpcode s.cfg false w) (modeByte 0b01#2 reg rm)
    ⟨.mov, .mem (bases rm) (shown (some (zext16 d8))), .reg (regIdx reg w)⟩ s)

/-- `mov reg, [bases + d8]`: the displacement is the octet's unsigned value (R177, R156). -/
def execMovRegRmDisp8 (w : Bool) (reg rm : Code3) (d8 : Byte) (s : State) : Host.Outcome State Fault Refusal :=
  .next (completeRm 3 (rmOpcode s.cfg true w) (modeByte 0b01#2 reg rm)
    ⟨.mov, .reg (regIdx reg w), .mem (bases rm) (shown (some (zext16 d8)))⟩ s)

/-- `mov [bases + d16], reg` (R178, R157). -/
def execMovRmRegDisp16 (w : Bool) (reg rm : Code3) (d16 : Word16) (s : State) : Host.Outcome State Fault Refusal :=
  .next (completeRmLo (rmOpcode s.cfg false w) (modeByte 0b10#2 reg rm) (lowOctet d16)
    ⟨.mov, .mem (bases rm) (shown (some d16)), .reg (regIdx reg w)⟩ s)

/-- `mov reg, [bases + d16]` (R179, R157). -/
def execMovRegRmDisp16 (w : Bool) (reg rm : Code3) (d16 : Word16) (s : State) : Host.Outcome State Fault Refusal :=
  .next (completeRmLo (rmOpcode s.cfg true w) (modeByte 0b10#2 reg rm) (lowOctet d16)
    ⟨.mov, .reg (regIdx reg w), .mem (bases rm) (shown (some d16))⟩ s)

end Sys2Proof.Machine
end

