-- ==== Sys2Proof/Machine/Unsupported.lean ====
section
/-! DEFINITION. The catch-all row: a first byte that matches neither pattern (41_opcode_classifier.md R133). -/

namespace Sys2Proof.Machine

/-- One octet is consumed and UnsupportedOpcode is raised (R133; 60_exceptions.md R231, R236). The machine goes on
with the next octet as a first byte (R238). -/
def execUnsupported (b : Byte) (s : State) : Host.Outcome State Fault Refusal :=
  .next (raiseUnsupported b (s.advance 1))

end Sys2Proof.Machine
end

