-- ==== Sys2Proof/Machine/Dispatch.lean ====
section
/-! DEFINITION. `exec`: one arm per constructor of `Instr`, each a direct call of its meaning. -/

namespace Sys2Proof.Machine

def exec (i : Instr) (s : State) : Host.Outcome State Fault Refusal :=
  match i with
  | .movRmRegDirect w reg rm => Sys2Proof.Machine.execMovRmRegDirect w reg rm s
  | .movRegRmDirect w reg rm => Sys2Proof.Machine.execMovRegRmDirect w reg rm s
  | .movRmRegAddr w reg addr => Sys2Proof.Machine.execMovRmRegAddr w reg addr s
  | .movRegRmAddr w reg addr => Sys2Proof.Machine.execMovRegRmAddr w reg addr s
  | .movRmRegMem w reg rm => Sys2Proof.Machine.execMovRmRegMem w reg rm s
  | .movRegRmMem w reg rm => Sys2Proof.Machine.execMovRegRmMem w reg rm s
  | .movRmRegDisp8 w reg rm d8 => Sys2Proof.Machine.execMovRmRegDisp8 w reg rm d8 s
  | .movRegRmDisp8 w reg rm d8 => Sys2Proof.Machine.execMovRegRmDisp8 w reg rm d8 s
  | .movRmRegDisp16 w reg rm d16 => Sys2Proof.Machine.execMovRmRegDisp16 w reg rm d16 s
  | .movRegRmDisp16 w reg rm d16 => Sys2Proof.Machine.execMovRegRmDisp16 w reg rm d16 s
  | .movRegImm8 reg data => Sys2Proof.Machine.execMovRegImm8 reg data s
  | .movRegImm16 reg data => Sys2Proof.Machine.execMovRegImm16 reg data s
  | .unsupported b => Sys2Proof.Machine.execUnsupported b s

end Sys2Proof.Machine
end

