-- ==== Sys2Proof/Machine/Sequencer.lean ====
section
/-! DEFINITION. The sequencing: the small-step machine of 41_opcode_classifier.md R140, one `NextOctet()` answer a
step, and what a whole decode attempt does at an end of the stream (R141). -/

namespace Sys2Proof.Machine

/-! ## The small step (R140) -/

/-- The arm of R140 for a `byte b` answer, which the cursor has moved past. The two terminal states have no arm;
`octetStep` never gets here from one. -/
def takeByte (b : Byte) (s : State) : State :=
  match s.st with
  | .fetch =>
    match classify s.cfg b with
    | .rm => (s.latchOpc b).goto .mode
    | .imm => (s.latchOpc b).goto .immLo
    | .unsupported => raiseUnsupported b s
  | .mode =>
    if ndisp (modField b) (rmField b) = 0 then (s.latchModb b).complete (buildRm s.opc b none)
    else (s.latchModb b).goto .dispLo
  | .dispLo =>
    if ndisp (modField s.modb) (rmField s.modb) = 1 then s.complete (buildRm s.opc s.modb (some (zext16 b)))
    else (s.latchLo b).goto .dispHi
  | .dispHi => s.complete (buildRm s.opc s.modb (some (hiLo b s.lo)))
  | .immLo =>
    if immW s.opc = false then s.complete (buildImm s.opc (zext16 b))
    else (s.latchLo b).goto .immHi
  | .immHi => s.complete (buildImm s.opc (hiLo b s.lo))
  | .haltEnd => s
  | .haltFault => s

/-- The arm of R140 for an `EOS` answer: `END` from `FETCH`, UnexpectedEndOfStream from any other state (R233). -/
def takeEos (s : State) : State :=
  match s.st with
  | .fetch => topLevelEnd s
  | .mode => raiseEos s
  | .dispLo => raiseEos s
  | .dispHi => raiseEos s
  | .immLo => raiseEos s
  | .immHi => raiseEos s
  | .haltEnd => s
  | .haltFault => s

/-- One request and its answer; a source that has answered `EOS` is not asked again (20_memory.md R52, U7). -/
def requestOctet (s : State) : Host.Outcome State Fault Refusal :=
  if s.source.ended then .refused .requestAfterEos
  else
    match nextOctet s with
    | (.byte b, s') => .next (takeByte b s')
    | (.eos, s') => .next (takeEos s')

/-- One step of the small-step machine. "`HALT_END` and `HALT_FAULT` have no step" (R140). -/
def octetStep (s : State) : Host.Outcome State Fault Refusal :=
  match s.st with
  | .haltEnd => .fault .haltEnd
  | .haltFault => .fault .haltFault
  | .fetch => requestOctet s
  | .mode => requestOctet s
  | .dispLo => requestOctet s
  | .dispHi => requestOctet s
  | .immLo => requestOctet s
  | .immHi => requestOctet s

/-- The decoder is inside an instruction: its attempt is not over (R23). -/
def SeqState.inside : SeqState → Bool
  | .fetch => false
  | .mode => true
  | .dispLo => true
  | .dispHi => true
  | .immLo => true
  | .immHi => true
  | .haltEnd => false
  | .haltFault => false

/-- At most `k` small steps, stopping where the attempt is over. -/
def finishAttempt : Nat → State → Host.Outcome State Fault Refusal
  | 0, s => .next s
  | k + 1, s =>
    match octetStep s with
    | .next t => if t.st.inside then finishAttempt k t else .next t
    | .fault r => .fault r
    | .refused r => .refused r

/-- `k` small steps, stopping at the first fault or refusal. -/
def octetRun : Nat → State → Host.Outcome State Fault Refusal
  | 0, s => .next s
  | k + 1, s =>
    match octetStep s with
    | .next t => octetRun k t
    | .fault r => .fault r
    | .refused r => .refused r

/-! ## A decode attempt that meets the end of the stream (R141) -/

/-- The latches that the octets of a truncated instruction have reached (R22, R140): the first octet is the opcode
byte; in format `RM` the second is the mode byte and the third the displacement's low octet; in format `IMM` the
second is the data's low octet. -/
def latchPartial (got : List Byte) (s : State) : State :=
  match got with
  | [b] => s.latchOpc b
  | [b, x] =>
    match classify s.cfg b with
    | .rm => (s.latchOpc b).latchModb x
    | .imm => (s.latchOpc b).latchLo x
    | .unsupported => s.latchOpc b
  | [b, m, l] => ((s.latchOpc b).latchModb m).latchLo l
  | _ => s

/-- The stream ends inside an instruction: the octets that did arrive "are **not** un-read" and
UnexpectedEndOfStream is raised (60_exceptions.md R232, R236). -/
def attemptTruncated (got : List Byte) (s : State) : State :=
  raiseEos ((latchPartial got s).advance got.length).markEnded

/-- The stream ends where a first byte is asked for: top-level end-of-stream (R233). -/
def attemptAtEnd (s : State) : State := topLevelEnd s.markEnded

end Sys2Proof.Machine
end

