-- ==== Sys2Proof/Machine/Step.lean ====
section
/-! DEFINITION. `step`: one whole decode attempt, the big-step reading (00_scope.md R11; 41_opcode_classifier.md
R141), and `withFetchWord`. -/

namespace Sys2Proof.Machine

/-- One decode attempt. From `FETCH`: the octets ahead of the cursor are decoded; an instruction is executed by
`exec`; no octet at all is top-level end-of-stream; a truncated instruction is UnexpectedEndOfStream. From a state
inside an instruction: the attempt is finished by small steps (R140); three are enough. The terminal states have no
step, and a source that has answered `EOS` is not asked again. -/
def step (s : State) : Host.Outcome State Fault Refusal :=
  match s.st with
  | .haltEnd => .fault .haltEnd
  | .haltFault => .fault .haltFault
  | .fetch =>
    if s.source.ended then .refused .requestAfterEos
    else
      match decode s.cfg (fetchOctets s) with
      | .ok i _ => exec i s
      | .endOfStream => .next (attemptAtEnd s)
      | .truncated => .next (attemptTruncated (fetchOctets s) s)
  | .mode => finishAttempt 3 s
  | .dispLo => finishAttempt 3 s
  | .dispHi => finishAttempt 3 s
  | .immLo => finishAttempt 3 s
  | .immHi => finishAttempt 3 s

/-- `s` with the instruction whose bits are `w`, as spec/opcode_table.json numbers them, as the next octets of the
byte stream, and the decoder about to read a first byte (log entry 13: the stream is the environment's). -/
def State.withFetchWord (s : State) (nbits w : Nat) : State :=
  { s with st := .fetch, source := s.source.load s.pos (tableOctets nbits w) }

end Sys2Proof.Machine
end

