-- ==== Sys2Proof/Machine/Port.lean ====
section
/-! DEFINITION. The result port at transaction level (10_state.md R40): the event kind codes (R32), and the optional
field form of an operand (R31). A field that the rule calls don't-care is `none` (log entry 8). -/

namespace Sys2Proof.Machine

/-- An operand on the port: the tag, and the fields that go with it (R31). -/
inductive PortOperand where
  /-- Tag 0: `idx[3:0]`. -/
  | reg (idx : BitVec 4)
  /-- Tag 1: `val[15:0]`. -/
  | imm (val : BitVec 16)
  /-- Tag 2: `nbase[1:0]`, `base0[3:0]`, `base1[3:0]`, `dshown`, `dval[15:0]`. -/
  | mem (nbase : BitVec 2) (base0 base1 : Option (BitVec 4)) (dshown : Bool) (dval : Option (BitVec 16))
  /-- Tag 3: "never produced". -/
  | reserved
deriving DecidableEq, Repr

/-- `tag[1:0]` (R31). -/
def PortOperand.tag : PortOperand → BitVec 2
  | .reg _ => 0#2
  | .imm _ => 1#2
  | .mem _ _ _ _ _ => 2#2
  | .reserved => 3#2

/-- The bits an operand's fields take, the tag's two among them (R31: 29 at its widest). -/
def PortOperand.width : PortOperand → Nat
  | .reg _ => 2 + 4
  | .imm _ => 2 + 16
  | .mem _ _ _ _ _ => 2 + 2 + 4 + 4 + 1 + 16
  | .reserved => 2

/-- An operand's port form (R31). The decoder produces at most two bases (00_scope.md R7). -/
def Operand.toPort : Operand → PortOperand
  | .reg n => .reg n
  | .imm v => .imm v
  | .mem bs disp => .mem (BitVec.ofNat 2 bs.length) bs[0]? bs[1]? disp.isSome disp

/-- What a consumer reads from the port; tag 3, a base count of 3 and a missing field are refused (U15). -/
def PortOperand.read : PortOperand → Option Operand
  | .reg n => some (.reg n)
  | .imm v => some (.imm v)
  | .mem n b0 b1 ds dv =>
    let disp : Option (Option Word16) :=
      match ds, dv with
      | false, _ => some none
      | true, some v => some (some v)
      | true, none => none
    let bs : Option (List RegIdx) :=
      if n = 0#2 then some []
      else if n = 1#2 then b0.map (fun x => [x])
      else if n = 2#2 then b0.bind (fun x => b1.map (fun y => [x, y]))
      else none
    bs.bind (fun l => disp.map (fun d => .mem l d))
  | .reserved => none

/-- One transaction of the result port (R40): `ev_kind`, `ev_byte` (meaningful for kind 1), `ev_instr` (meaningful
for kind 0). -/
structure PortEvent where
  kind : BitVec 2
  byte : Option Byte
  instr : Option (PortOperand × PortOperand)
deriving DecidableEq, Repr

/-- The kind codes of R32. -/
def Event.kind : Event → BitVec 2
  | .instr _ => 0#2
  | .errUnsupported _ => 1#2
  | .errEos => 2#2
  | .endOfRun => 3#2

/-- An event on the result port (R40). The mnemonic needs no bits (R31). -/
def Event.toPort (e : Event) : PortEvent :=
  match e with
  | .instr i => { kind := e.kind, byte := none, instr := some (i.op1.toPort, i.op2.toPort) }
  | .errUnsupported b => { kind := e.kind, byte := some b, instr := none }
  | .errEos => { kind := e.kind, byte := none, instr := none }
  | .endOfRun => { kind := e.kind, byte := none, instr := none }

end Sys2Proof.Machine
end

