-- ==== Sys2Proof/Machine/Render.lean ====
section
/-! DEFINITION. The renderer, a pure reference observation function outside the machine (00_scope.md R4;
44_renderer.md), its output lines, and the grammar of its text (R218). -/

namespace Sys2Proof.Machine

/-- The two-character lower-case name (R211; 40_register_rom.md R110). -/
def RegName.text : RegName → Text
  | .al => ['a', 'l'] | .cl => ['c', 'l'] | .dl => ['d', 'l'] | .bl => ['b', 'l']
  | .ah => ['a', 'h'] | .ch => ['c', 'h'] | .dh => ['d', 'h'] | .bh => ['b', 'h']
  | .ax => ['a', 'x'] | .cx => ['c', 'x'] | .dx => ['d', 'x'] | .bx => ['b', 'x']
  | .sp => ['s', 'p'] | .bp => ['b', 'p'] | .si => ['s', 'i'] | .di => ['d', 'i']

/-- The numeral of a digit 0..9. -/
def digitChar (n : Nat) : Char :=
  match n with
  | 0 => '0' | 1 => '1' | 2 => '2' | 3 => '3' | 4 => '4'
  | 5 => '5' | 6 => '6' | 7 => '7' | 8 => '8' | _ => '9'

/-- The decimal numeral of `n`, most significant digit first, at most `k` digits. -/
def decimal : Nat → Nat → Text
  | 0, _ => []
  | k + 1, n => if n < 10 then [digitChar n] else decimal k (n / 10) ++ [digitChar (n % 10)]

/-- `dec(v)`: the unsigned value in decimal, no sign, no leading zeros, 1 to 5 characters (R213). -/
def dec (v : Word16) : Text := decimal 5 v.toNat

/-- `join(" + ", parts)` (R214). -/
def joinPlus : List Text → Text
  | [] => []
  | [p] => p
  | p :: q :: ps => p ++ [' ', '+', ' '] ++ joinPlus (q :: ps)

/-- The parts of a memory operand: base names first, the displacement last (R214). -/
def memParts (bs : List RegIdx) (disp : Option Word16) : List Text :=
  bs.map (fun b => (rom b).text) ++ (match disp with | some v => [dec v] | none => [])

/-- `render_op` (R211, R212, R214, R215). -/
def renderOp (c : Config) : Operand → Text
  | .reg n => (rom n).text
  | .imm v => dec v
  | .mem bs disp =>
    match memParts bs disp with
    | [] => c.emptyCalcText
    | p :: ps => ['['] ++ joinPlus (p :: ps) ++ [']']

/-- The mnemonic's text (R210). -/
def Mnemonic.text : Mnemonic → Text
  | .mov => ['m', 'o', 'v']

/-- `render(i)`: "`mnemonic operand1, operand2`" (R210). -/
def render (c : Config) (i : Instruction) : Text :=
  i.mnemonic.text ++ [' '] ++ renderOp c i.op1 ++ [',', ' '] ++ renderOp c i.op2

/-- The line an event prints: an instruction its text, an error its diagnostic, whose wording is OPEN, each followed
by one LF (92_eei_decisions.md D19); `END` prints nothing (R217). -/
def outputLine (c : Config) : Event → Text
  | .instr i => render c i ++ ['\n']
  | .errUnsupported _ => Config.diagText .unsupportedOpcode ++ ['\n']
  | .errEos => Config.diagText .unexpectedEndOfStream ++ ['\n']
  | .endOfRun => []

/-- The text output of a trace (R217). -/
def output (c : Config) (trace : List Event) : Text := trace.flatMap (outputLine c)

/-! ## The grammar of R218 -/

/-- `digit`. -/
def isDigit (ch : Char) : Bool := ['0', '1', '2', '3', '4', '5', '6', '7', '8', '9'].contains ch

/-- `reg`: one of the 16 names. -/
def GrammarReg (t : Text) : Prop := ∃ n : RegIdx, t = (rom n).text

/-- The value of a string of digits, most significant first. -/
def digitsValue (t : Text) : Nat := t.foldl (fun n ch => 10 * n + (ch.toNat - 48)) 0

/-- `number ::= "0" | nonzero-digit digit*`, "value 0..65535". -/
def GrammarNumber (t : Text) : Prop :=
  (t = ['0'] ∨ ∃ d ds, t = d :: ds ∧ isDigit d = true ∧ d ≠ '0' ∧ ds.all isDigit = true) ∧ digitsValue t ≤ 65535

/-- `term ::= "bx" | "bp" | "si" | "di" | number`. -/
def GrammarTerm (t : Text) : Prop :=
  t = ['b', 'x'] ∨ t = ['b', 'p'] ∨ t = ['s', 'i'] ∨ t = ['d', 'i'] ∨ GrammarNumber t

/-- `mem ::= "[" term (" + " term)* "]" | EMPTY_CALC_TEXT`. -/
def GrammarMem (c : Config) (t : Text) : Prop :=
  (∃ p ps, (∀ q ∈ p :: ps, GrammarTerm q) ∧ t = ['['] ++ joinPlus (p :: ps) ++ [']']) ∨ t = c.emptyCalcText

/-- `operand ::= reg | number | mem`. -/
def GrammarOperand (c : Config) (t : Text) : Prop := GrammarReg t ∨ GrammarNumber t ∨ GrammarMem c t

/-- `line ::= "mov" " " operand ", " operand`. -/
def GrammarLine (c : Config) (t : Text) : Prop :=
  ∃ a b, GrammarOperand c a ∧ GrammarOperand c b ∧ t = ['m', 'o', 'v', ' '] ++ a ++ [',', ' '] ++ b

end Sys2Proof.Machine
end

