-- ==== Sys2Proof/Safety.lean ====
section
/-! DEFINITION. What counts as a safe run, and the invariants, in the terms claims use. -/

namespace Sys2Proof.Machine

/-! ## Ends of a run (60_exceptions.md R242) -/

/-- A terminal state of R23. -/
def SeqState.terminal : SeqState → Bool
  | .haltEnd => true
  | .haltFault => true
  | _ => false

/-- The good end of a run in which every octet was decoded on an instruction boundary: the one
good final state of 60_exceptions.md R242 with both sticky flags clear (10_state.md R24). -/
def State.cleanEnd (s : State) : Prop := s.st = .haltEnd ∧ s.unsupSeen = false ∧ s.eosFault = false

/-! ## Events (10_state.md R29, R30, R32) -/

/-- The two events that can only be a trace's last (R32). -/
def Event.isFinal : Event → Bool
  | .instr _ => false
  | .errUnsupported _ => false
  | .errEos => true
  | .endOfRun => true

/-- A memory operand the decoder can produce: its bases are one of the eight lists of 42_mov_rm_reg.md R158 or empty
(R29 b), and a zero displacement is never carried (R29 a). -/
def MemProducible (bs : List RegIdx) (disp : Option Word16) : Prop :=
  (bs = [] ∨ ∃ rm, bs = bases rm) ∧ disp ≠ some 0#16

/-- The instructions the decoder produces: the four shapes of R30, a register pair of one size
(40_register_rom.md R114), and a byte register's immediate below 256 (R28). -/
def Instruction.Producible (i : Instruction) : Prop :=
  match i.op1, i.op2 with
  | .reg a, .reg b => a.msb = b.msb
  | .reg _, .mem bs disp => MemProducible bs disp
  | .mem bs disp, .reg _ => MemProducible bs disp
  | .reg a, .imm v => a.msb = false → v.toNat < 256
  | _, _ => False

/-- An event the decoder can produce under the parameters `c`. -/
def Event.Producible (c : Config) : Event → Prop
  | .instr i => i.Producible
  | .errUnsupported b => classify c b = .unsupported
  | .errEos => True
  | .endOfRun => True

/-! ## Invariants, each kept by every step -/

/-- The byte source is in canonical form, the cursor is within the stream, and the source has answered `EOS` only
with the cursor at the stream's end (20_memory.md R50). -/
def SourceInv (s : State) : Prop :=
  s.source.wf = true ∧ (∀ l, s.source.length = some l → s.pos ≤ l) ∧
    (s.source.ended = true → s.source.length = some s.pos)

/-- Inside an instruction the latches hold the octets just consumed and lead where `st` says (10_state.md R21 to
R23): the hypothesis of each state is what R140 has established on the way there. -/
def LatchInv (s : State) : Prop :=
  match s.st with
  | .fetch => True
  | .mode => 1 ≤ s.pos ∧ s.source.octet (s.pos - 1) = some s.opc ∧ classify s.cfg s.opc = .rm
  | .dispLo =>
    2 ≤ s.pos ∧ s.source.octet (s.pos - 2) = some s.opc ∧ s.source.octet (s.pos - 1) = some s.modb ∧
      classify s.cfg s.opc = .rm ∧ ndisp (modField s.modb) (rmField s.modb) ≠ 0
  | .dispHi =>
    3 ≤ s.pos ∧ s.source.octet (s.pos - 3) = some s.opc ∧ s.source.octet (s.pos - 2) = some s.modb ∧
      s.source.octet (s.pos - 1) = some s.lo ∧
      classify s.cfg s.opc = .rm ∧ ndisp (modField s.modb) (rmField s.modb) = 2
  | .immLo => 1 ≤ s.pos ∧ s.source.octet (s.pos - 1) = some s.opc ∧ classify s.cfg s.opc = .imm
  | .immHi =>
    2 ≤ s.pos ∧ s.source.octet (s.pos - 2) = some s.opc ∧ s.source.octet (s.pos - 1) = some s.lo ∧
      classify s.cfg s.opc = .imm ∧ immW s.opc = true
  | .haltEnd => True
  | .haltFault => True

/-- The trace's shape (R32): only its last event can be `END` or `ERR_EOS`, it is one of them exactly when the
source has answered `EOS`, and then the decoder has halted, or under the policy `resume` is back in `FETCH`. -/
def TraceInv (s : State) : Prop :=
  (∀ e ∈ s.trace.dropLast, e.isFinal = false) ∧
    (s.source.ended = true ↔ ∃ e, s.trace.getLast? = some e ∧ e.isFinal = true) ∧
    (s.st = .haltEnd → s.trace.getLast? = some .endOfRun) ∧
    (s.st = .haltFault → s.trace.getLast? = some .errEos) ∧
    (s.source.ended = true → s.st.terminal = true ∨ (s.st = .fetch ∧ s.cfg.eosPolicy = .resume))

/-- The sticky flags record exactly the errors of the trace (R24). -/
def FlagInv (s : State) : Prop :=
  (s.unsupSeen = true ↔ ∃ b, .errUnsupported b ∈ s.trace) ∧ (s.eosFault = true ↔ .errEos ∈ s.trace)

/-- Every event of the trace is one the decoder can produce (R29, R30; 60_exceptions.md R231). -/
def EventInv (s : State) : Prop := ∀ e ∈ s.trace, e.Producible s.cfg

/-- The machine's invariant. -/
def Inv (s : State) : Prop := SourceInv s ∧ LatchInv s ∧ TraceInv s ∧ FlagInv s ∧ EventInv s

/-! ## Observations -/

/-- Everything but the three latches: what an observer of the ports can see (10_state.md R40), and the
environment. -/
def State.view (s : State) : State := { s with opc := 0#8, modb := 0#8, lo := 0#8 }

/-- `s` with other values in the three latches. -/
def State.withLatches (s : State) (o m l : Byte) : State := { s with opc := o, modb := m, lo := l }

/-- The event that an instruction's meaning emits; it does not depend on the state (10_state.md R22). -/
def eventOf (i : Instr) : Option Event :=
  match exec i State.reset with
  | .next t => t.trace.getLast?
  | .fault _ => none
  | .refused _ => none

/-- The text of the first instruction that the octets `os` decode to whole, under the default parameters. -/
def shownText (os : List Byte) : Option Text :=
  match decode Config.default os with
  | .ok i [] =>
    match exec i State.reset with
    | .next t =>
      match t.trace with
      | [.instr j] => some (render Config.default j)
      | _ => none
    | .fault _ => none
    | .refused _ => none
  | _ => none

/-- UnexpectedEndOfStream when the stream ends after `k` octets of the instruction `i`: the `E(k)` of
60_exceptions.md R234, under `EOS_POLICY = abort`. -/
def RaisesEosAfter (c : Config) (i : Instr) (k : Nat) : Prop :=
  ∀ s : State, s.cfg = c → c.eosPolicy = .abort → s.st = .fetch → s.source.ended = false →
    fetchOctets s = (encode c i).take k →
    ∃ t, step s = .next t ∧ t.trace = s.trace ++ [.errEos] ∧ t.eosFault = true ∧ t.unsupSeen = s.unsupSeen ∧
      t.st = .haltFault ∧ t.pos = s.pos + k

end Sys2Proof.Machine
end

