-- ==== Sys2Proof/Certificates/Slice0/Obligations.lean ====
section
/-! DEFINITION. The obligations for the provers. Each docstring names the rules of spec/ it formalises. -/

open Sys2Proof Sys2Proof.Machine

/-! ## Encoding and decoding -/

/-- Decode and encode agree: under any parameters, the octets of a well-formed instruction, whatever follows them,
decode to it and leave what follows (30_encoding.md R81, R82; R97's round-trip law on the canonical encoding). -/
def Obligations.DecodeOfEncode : Prop :=
  ∀ (c : Config) (i : Instr) (rest : List Byte),
    i.WellFormed c = true → decode c (encode c i ++ rest) = .ok i rest

/-- Every decoded instruction is well-formed and the octets it was decoded from are exactly its encoding: the octets
have one meaning, and no octet beyond the instruction is consumed (R83, R94). -/
def Obligations.DecodedOctetsAreTheEncoding : Prop :=
  ∀ (c : Config) (bs rest : List Byte) (i : Instr),
    decode c bs = .ok i rest → i.WellFormed c = true ∧ bs = encode c i ++ rest

/-- Words written out bit by bit from the tables of R81 and R82, one for each row of opcode_table.json. -/
def Obligations.SpecWordsDecode : Prop :=
  decode Config.default [0b10001001#8, 0b11011001#8] = .ok (.movRmRegDirect true 0b011#3 0b001#3) [] ∧
    decode Config.default [0b10001010#8, 0b11000001#8] = .ok (.movRegRmDirect false 0b000#3 0b001#3) [] ∧
    decode Config.default [0b10001001#8, 0b00001110#8, 0x34#8, 0x12#8] = .ok (.movRmRegAddr true 0b001#3 0x1234#16) [] ∧
    decode Config.default [0b10001010#8, 0b00011110#8, 0xFF#8, 0x7F#8] = .ok (.movRegRmAddr false 0b011#3 0x7FFF#16) [] ∧
    decode Config.default [0b10001000#8, 0b00001100#8] = .ok (.movRmRegMem false 0b001#3 0b100#3) [] ∧
    decode Config.default [0b10001011#8, 0b00011010#8] = .ok (.movRegRmMem true 0b011#3 0b010#3) [] ∧
    decode Config.default [0b10001000#8, 0b01101110#8, 0x01#8] = .ok (.movRmRegDisp8 false 0b101#3 0b110#3 0x01#8) [] ∧
    decode Config.default [0b10001011#8, 0b01000110#8, 0xFB#8] = .ok (.movRegRmDisp8 true 0b000#3 0b110#3 0xFB#8) [] ∧
    decode Config.default [0b10001001#8, 0b10010100#8, 0xE8#8, 0x03#8] =
      .ok (.movRmRegDisp16 true 0b010#3 0b100#3 0x03E8#16) [] ∧
    decode Config.default [0b10001011#8, 0b10010111#8, 0x00#8, 0x01#8] =
      .ok (.movRegRmDisp16 true 0b010#3 0b111#3 0x0100#16) [] ∧
    decode Config.default [0b10110111#8, 0xFF#8] = .ok (.movRegImm8 0b111#3 0xFF#8) [] ∧
    decode Config.default [0b10111001#8, 0x0C#8, 0x00#8] = .ok (.movRegImm16 0b001#3 0x000C#16) [] ∧
    decode Config.default [0b10001100#8, 0x00#8] = .ok (.unsupported 0x8C#8) [0x00#8]

/-- 41_opcode_classifier.md R130 and R131: the two tests in order, over any parameters, the defaults, and the worked
examples. With disjoint sets no byte passes both tests, so the order cannot be observed; where both pass, `RM` wins. -/
def Obligations.ClassifierFirstMatchWins : Prop :=
  (∀ (c : Config) (b : Byte),
      (b.extractLsb' 2 6 = c.opcRr6 → classify c b = .rm) ∧
        (b.extractLsb' 2 6 ≠ c.opcRr6 → b.extractLsb' 4 4 = c.opcImm4 → classify c b = .imm) ∧
        (b.extractLsb' 2 6 ≠ c.opcRr6 → b.extractLsb' 4 4 ≠ c.opcImm4 → classify c b = .unsupported)) ∧
    Config.default.opcRr6 = 0b100010#6 ∧ Config.default.opcImm4 = 0b1011#4 ∧
    classify Config.default 0x8B#8 = .rm ∧ classify Config.default 0xB0#8 = .imm ∧
    classify Config.default 0x90#8 = .unsupported ∧
    (∀ (c : Config) (b : Byte), c.Disjoint → ¬ (b.extractLsb' 2 6 = c.opcRr6 ∧ b.extractLsb' 4 4 = c.opcImm4)) ∧
    Config.default.Disjoint ∧ Config.literalReading.Disjoint

/-- 30_encoding.md R93 (and 41_opcode_classifier.md R134): the first-byte map of the defaults with its counts, and the
supported set for any parameters. -/
def Obligations.FirstByteMap : Prop :=
  (∀ b : Byte,
      (classify Config.default b = .rm ↔ 0x88 ≤ b.toNat ∧ b.toNat ≤ 0x8B) ∧
        (classify Config.default b = .imm ↔ 0xB0 ≤ b.toNat ∧ b.toNat ≤ 0xBF) ∧
        (classify Config.default b = .imm → (immW b = true ↔ 0xB8 ≤ b.toNat) ∧ (immReg b).toNat = b.toNat % 8)) ∧
    (opcD 0x88#8 = false ∧ opcW 0x88#8 = false) ∧ (opcD 0x89#8 = false ∧ opcW 0x89#8 = true) ∧
    (opcD 0x8A#8 = true ∧ opcW 0x8A#8 = false) ∧ (opcD 0x8B#8 = true ∧ opcW 0x8B#8 = true) ∧
    (List.range 256).countP (fun n => decide (classify Config.default (BitVec.ofNat 8 n) = .unsupported)) = 236 ∧
    ∀ (c : Config) (b : Byte), classify c b ≠ .unsupported ↔
      (∃ k, k < 4 ∧ b.toNat = 4 * c.opcRr6.toNat + k) ∨ (∃ k, k < 16 ∧ b.toNat = 16 * c.opcImm4.toNat + k)

/-- 30_encoding.md R85: the opcode byte values in general, under the defaults, and under the literal reading. -/
def Obligations.OpcodeByteValues : Prop :=
  (∀ (c : Config) (d w : Bool), (rmOpcode c d w).toNat = 4 * c.opcRr6.toNat + 2 * d.toNat + w.toNat) ∧
    (∀ (c : Config) (w : Bool) (reg : Code3), (immOpcode c w reg).toNat = 16 * c.opcImm4.toNat + 8 * w.toNat + reg.toNat) ∧
    (rmOpcode Config.default false false = 0x88#8 ∧ rmOpcode Config.default false true = 0x89#8 ∧
      rmOpcode Config.default true false = 0x8A#8 ∧ rmOpcode Config.default true true = 0x8B#8) ∧
    (∀ reg : Code3, (immOpcode Config.default false reg).toNat = 0xB0 + reg.toNat ∧
      (immOpcode Config.default true reg).toNat = 0xB8 + reg.toNat ∧
      regName reg false = [RegName.al, .cl, .dl, .bl, .ah, .ch, .dh, .bh][reg.toNat]'reg.isLt ∧
      regName reg true = [RegName.ax, .cx, .dx, .bx, .sp, .bp, .si, .di][reg.toNat]'reg.isLt) ∧
    (∀ d w : Bool, (rmOpcode Config.literalReading d w).toNat = 0x20 + 2 * d.toNat + w.toNat) ∧
    ∀ (w : Bool) (reg : Code3), (immOpcode Config.literalReading w reg).toNat = 8 * w.toNat + reg.toNat

/-- 30_encoding.md R91: `ndisp` and `direct` for every `mod` and `rm`. -/
def Obligations.NdispTable : Prop :=
  ∀ rm : Code3,
    ndisp 0b11#2 rm = 0 ∧ ndisp 0b01#2 rm = 1 ∧ ndisp 0b10#2 rm = 2 ∧
      (rm = 0b110#3 → ndisp 0b00#2 rm = 2) ∧ (rm ≠ 0b110#3 → ndisp 0b00#2 rm = 0) ∧
      ∀ mod : Mod2, isDirect mod rm = true ↔ mod = 0b00#2 ∧ rm = 0b110#3

/-- 30_encoding.md R84: the number of octets every decode attempt that ends in an instruction consumes, by format
and condition; UnsupportedOpcode consumes exactly 1. -/
def Obligations.InstructionLengths : Prop :=
  (∀ (c : Config) (b m : Byte) (bs rest : List Byte) (i : Instr),
    decode c (b :: m :: bs) = .ok i rest →
      (classify c b = .rm →
        (modField m = 0b11#2 → (b :: m :: bs).length = rest.length + 2) ∧
          (modField m = 0b00#2 → rmField m ≠ 0b110#3 → (b :: m :: bs).length = rest.length + 2) ∧
          (modField m = 0b00#2 → rmField m = 0b110#3 → (b :: m :: bs).length = rest.length + 4) ∧
          (modField m = 0b01#2 → (b :: m :: bs).length = rest.length + 3) ∧
          (modField m = 0b10#2 → (b :: m :: bs).length = rest.length + 4)) ∧
        (classify c b = .imm →
          (immW b = false → (b :: m :: bs).length = rest.length + 2) ∧
            (immW b = true → (b :: m :: bs).length = rest.length + 3))) ∧
    ∀ (c : Config) (b : Byte) (bs : List Byte), classify c b = .unsupported →
      decode c (b :: bs) = .ok (.unsupported b) bs

/-- 30_encoding.md R90 (and 20_memory.md R54): a 1-octet value is that octet's number, a 2-octet value is
`256*hi + lo`; neither is extended by a sign nor overflows 16 bits. -/
def Obligations.ValueAssembly : Prop :=
  (∀ lo : Byte, (zext16 lo).toNat = lo.toNat) ∧
    (∀ hi lo : Byte, (hiLo hi lo).toNat = 256 * hi.toNat + lo.toNat ∧ 256 * hi.toNat + lo.toNat ≤ 65535) ∧
    hiLo 0x12#8 0x34#8 = 4660#16 ∧ zext16 0xFB#8 = 251#16

/-- 30_encoding.md R98: the first row of the opcode table that fits the first two octets, or the first alone where
there is no second, is the row of the decoded instruction, with its length. -/
def Obligations.OpcodeTableFirstMatch : Prop :=
  ∀ (b0 : Byte) (bs rest : List Byte) (i : Instr),
    decode Config.default (b0 :: bs) = .ok i rest →
      ∃ r, tableLookup b0 bs.head? = some r ∧ r.form = i.form ∧ r.length = i.size

/-! ## The register lookup ROM -/

/-- 40_register_rom.md R110 and R117: the 16 entries, their ASCII words, and that they are pairwise distinct. -/
def Obligations.RomContents : Prop :=
  (List.range 16).map (fun n => rom (BitVec.ofNat 4 n)) =
      [.al, .cl, .dl, .bl, .ah, .ch, .dh, .bh, .ax, .cx, .dx, .bx, .sp, .bp, .si, .di] ∧
    (List.range 16).map (fun n => (rom (BitVec.ofNat 4 n)).asciiWord) =
      [0x616C#16, 0x636C#16, 0x646C#16, 0x626C#16, 0x6168#16, 0x6368#16, 0x6468#16, 0x6268#16,
        0x6178#16, 0x6378#16, 0x6478#16, 0x6278#16, 0x7370#16, 0x6270#16, 0x7369#16, 0x6469#16] ∧
    (∀ i j : RegIdx, rom i = rom j → i = j) ∧
    regName 0#3 false = .al ∧ regName 1#3 false = .cl ∧ regName 2#3 false = .dl ∧ regName 3#3 false = .bl ∧
    regName 4#3 false = .ah ∧ regName 5#3 false = .ch ∧ regName 6#3 false = .dh ∧ regName 7#3 false = .bh ∧
    regName 0#3 true = .ax ∧ regName 1#3 true = .cx ∧ regName 2#3 true = .dx ∧ regName 3#3 true = .bx ∧
    regName 4#3 true = .sp ∧ regName 5#3 true = .bp ∧ regName 6#3 true = .si ∧ regName 7#3 true = .di

/-- 40_register_rom.md R111 and R112: `regidx = code + 8*wide`, in 0..15, each address reached by exactly one pair. -/
def Obligations.RegIdxReachesEachEntryOnce : Prop :=
  (∀ (code : Code3) (wide : Bool),
      (regIdx code wide).toNat = code.toNat + 8 * wide.toNat ∧ code.toNat + 8 * wide.toNat ≤ 15 ∧
        regName code wide = rom (regIdx code wide)) ∧
    ∀ n : RegIdx, ∃ (code : Code3) (wide : Bool), regIdx code wide = n ∧
      ∀ (code' : Code3) (wide' : Bool), regIdx code' wide' = n → code' = code ∧ wide' = wide

/-! ## The operand extractor -/

/-- 42_mov_rm_reg.md R158: the base/index table, and no base in the direct-address case only. -/
def Obligations.BaseIndexTable : Prop :=
  (bases 0b000#3).map rom = [.bx, .si] ∧ (bases 0b001#3).map rom = [.bx, .di] ∧
    (bases 0b010#3).map rom = [.bp, .si] ∧ (bases 0b011#3).map rom = [.bp, .di] ∧
    (bases 0b100#3).map rom = [.si] ∧ (bases 0b101#3).map rom = [.di] ∧
    (bases 0b110#3).map rom = [.bp] ∧ (bases 0b111#3).map rom = [.bx] ∧
    (bases 0b000#3 = [11#4, 14#4] ∧ bases 0b001#3 = [11#4, 15#4] ∧ bases 0b010#3 = [13#4, 14#4] ∧
      bases 0b011#3 = [13#4, 15#4] ∧ bases 0b100#3 = [14#4] ∧ bases 0b101#3 = [15#4] ∧
      bases 0b110#3 = [13#4] ∧ bases 0b111#3 = [11#4]) ∧
    ∀ (mod : Mod2) (rm : Code3),
      (mod = 0b00#2 → rm = 0b110#3 → basesOf mod rm = []) ∧
        (¬ (mod = 0b00#2 ∧ rm = 0b110#3) → basesOf mod rm = bases rm)

/-- 42_mov_rm_reg.md R159: a displacement is shown when it is present and not zero; the test is on the assembled
value. -/
def Obligations.ShownDisplacement : Prop :=
  shown none = none ∧ shown (some 0#16) = none ∧ (∀ v : Word16, v ≠ 0#16 → shown (some v) = some v) ∧
    (∀ (mod : Mod2) (rm : Code3) (w : Bool) (dv : Option Word16),
      mod ≠ 0b11#2 → rmOperand mod rm w dv = .mem (basesOf mod rm) (shown dv)) ∧
    shown (some (hiLo 0x01#8 0x00#8)) = some 256#16 ∧ shown (some (hiLo 0x00#8 0x00#8)) = none ∧
    shownText [0x8B#8, 0x40#8, 0x00#8] = some ['m', 'o', 'v', ' ', 'a', 'x', ',', ' ', '[', 'b', 'x', ' ', '+', ' ', 's', 'i', ']'] ∧
    rmOperand 0b00#2 0b110#3 true (some 0#16) = .mem [] none

/-- 42_mov_rm_reg.md R160 to R163, 43_mov_reg_imm.md R192 and R195. Format `RM`: the r/m field's register in register-direct mode, the reg field's register in every
mode, both by the opcode byte's `w`; destination first, by `d`. Format `IMM`: the destination is the ROM entry of
the opcode byte's low nibble, the source the value. -/
def Obligations.InstructionsFromOctets : Prop :=
  (∀ (opc : Byte) (v : Word16),
    buildImm opc v = ⟨.mov, .reg (regIdx (opc.extractLsb' 0 3) (opc.getLsbD 3)), .imm v⟩ ∧
      regIdx (opc.extractLsb' 0 3) (opc.getLsbD 3) = opc.extractLsb' 0 4) ∧
  ∀ (opc modb : Byte) (dv : Option Word16),
    (modField modb = 0b11#2 →
        rmOperand (modField modb) (rmField modb) (opcW opc) dv = .reg (regIdx (rmField modb) (opcW opc))) ∧
      (modField modb ≠ 0b11#2 →
        rmOperand (modField modb) (rmField modb) (opcW opc) dv =
          .mem (basesOf (modField modb) (rmField modb)) (shown dv)) ∧
      regOperand (regField modb) (opcW opc) = .reg (regIdx (regField modb) (opcW opc)) ∧
      (opcD opc = false →
        buildRm opc modb dv = ⟨.mov, rmOperand (modField modb) (rmField modb) (opcW opc) dv,
          regOperand (regField modb) (opcW opc)⟩) ∧
      (opcD opc = true →
        buildRm opc modb dv = ⟨.mov, regOperand (regField modb) (opcW opc),
          rmOperand (modField modb) (rmField modb) (opcW opc) dv⟩)

/-- What an instruction's meaning emits is what `build_rm` or `build_imm` makes of its own octets (R163, R195): the
meaning of each row against the functions that the small-step machine calls. -/
def Obligations.MeaningsEmitTheBuiltInstruction : Prop :=
  ∀ (c : Config) (i : Instr), i.WellFormed c = true → i.isSupported = true →
    ∃ o m rest, encode c i = o :: m :: rest ∧
      eventOf i = some (.instr (match i.opClass, rest with
        | .rm, [] => buildRm o m none
        | .rm, [l] => buildRm o m (some (zext16 l))
        | .rm, l :: h :: _ => buildRm o m (some (hiLo h l))
        | .imm, [] => buildImm o (zext16 m)
        | .imm, h :: _ => buildImm o (hiLo h m)
        | .unsupported, _ => buildImm o 0#16))

/-- 10_state.md R30: every supported instruction emits an `INSTR` event of one of the four shapes, and every producible
`Instruction` is emitted by some well-formed instruction. -/
def Obligations.ProducibleInstructionsExactly : Prop :=
  (∀ i : Instr, i.isSupported = true → ∃ j : Instruction, eventOf i = some (.instr j) ∧ j.Producible) ∧
    ∀ (c : Config) (j : Instruction), c.Disjoint → j.Producible →
      ∃ i : Instr, i.WellFormed c = true ∧ i.isSupported = true ∧ eventOf i = some (.instr j)

/-- 30_encoding.md R97: the encoding is redundant. Different octets give the same event: (a) the two directions of a
register pair; (b) a zero displacement in 0, 1 or 2 octets; (c) a small displacement in 1 or 2 octets. The cursor
tells the lengths apart. -/
def Obligations.RedundantEncodings : Prop :=
  (∀ (w : Bool) (a b : Code3), eventOf (.movRmRegDirect w a b) = eventOf (.movRegRmDirect w b a)) ∧
    (∀ (w : Bool) (reg rm : Code3),
      eventOf (.movRmRegDisp8 w reg rm 0#8) = eventOf (.movRmRegDisp16 w reg rm 0#16) ∧
        eventOf (.movRegRmDisp8 w reg rm 0#8) = eventOf (.movRegRmDisp16 w reg rm 0#16) ∧
        (rm ≠ 0b110#3 → eventOf (.movRmRegDisp8 w reg rm 0#8) = eventOf (.movRmRegMem w reg rm) ∧
          eventOf (.movRegRmDisp8 w reg rm 0#8) = eventOf (.movRegRmMem w reg rm))) ∧
    (∀ (w : Bool) (reg rm : Code3) (v : Byte),
      eventOf (.movRmRegDisp8 w reg rm v) = eventOf (.movRmRegDisp16 w reg rm (v.zeroExtend 16)) ∧
        eventOf (.movRegRmDisp8 w reg rm v) = eventOf (.movRegRmDisp16 w reg rm (v.zeroExtend 16))) ∧
    (∀ i s t, exec i s = .next t → t.pos = s.pos + i.size) ∧
    shownText [0x89#8, 0xC1#8] = some ['m', 'o', 'v', ' ', 'c', 'x', ',', ' ', 'a', 'x'] ∧
    shownText [0x8B#8, 0xC8#8] = some ['m', 'o', 'v', ' ', 'c', 'x', ',', ' ', 'a', 'x'] ∧
    shownText [0x8B#8, 0x00#8] = some ['m', 'o', 'v', ' ', 'a', 'x', ',', ' ', '[', 'b', 'x', ' ', '+', ' ', 's', 'i', ']'] ∧
    shownText [0x8B#8, 0x40#8, 0x00#8] = some ['m', 'o', 'v', ' ', 'a', 'x', ',', ' ', '[', 'b', 'x', ' ', '+', ' ', 's', 'i', ']'] ∧
    shownText [0x8B#8, 0x80#8, 0x00#8, 0x00#8] = some ['m', 'o', 'v', ' ', 'a', 'x', ',', ' ', '[', 'b', 'x', ' ', '+', ' ', 's', 'i', ']']

/-! ## The instruction forms: what each row does, and that it completes -/

/-- 42_mov_rm_reg.md R170: the encoding, the length, the result, the exceptions and the worked examples of
MOV_RM_REG register-direct. The next state is whole: no flag and nothing else of the state changes. -/
def Obligations.RmRegDirectMovesRegisterToRegister : Prop :=
  ∀ (w : Bool) (reg rm : Code3) (s : State),
    encode s.cfg (.movRmRegDirect w reg rm) = [s.cfg.opcRr6 ++ 0#1 ++ BitVec.ofBool w, 0b11#2 ++ reg ++ rm] ∧
      (encode s.cfg (.movRmRegDirect w reg rm)).length = 2 ∧
      exec (.movRmRegDirect w reg rm) s = .next { s with
          opc := s.cfg.opcRr6 ++ 0#1 ++ BitVec.ofBool w, modb := 0b11#2 ++ reg ++ rm,
          pos := s.pos + 2, st := .fetch,
          trace := s.trace ++ [.instr ⟨.mov, .reg (regIdx rm w), .reg (regIdx reg w)⟩] } ∧
      RaisesEosAfter s.cfg (.movRmRegDirect w reg rm) 1 ∧
      shownText [0x89#8, 0xD9#8] = some ['m', 'o', 'v', ' ', 'c', 'x', ',', ' ', 'b', 'x'] ∧
      shownText [0x88#8, 0xE5#8] = some ['m', 'o', 'v', ' ', 'c', 'h', ',', ' ', 'a', 'h']

/-- 42_mov_rm_reg.md R171: the encoding, the length, the result, the exceptions and the worked examples of
MOV_REG_RM register-direct. The next state is whole: no flag and nothing else of the state changes. -/
def Obligations.RegRmDirectMovesRegisterToRegister : Prop :=
  ∀ (w : Bool) (reg rm : Code3) (s : State),
    encode s.cfg (.movRegRmDirect w reg rm) = [s.cfg.opcRr6 ++ 1#1 ++ BitVec.ofBool w, 0b11#2 ++ reg ++ rm] ∧
      (encode s.cfg (.movRegRmDirect w reg rm)).length = 2 ∧
      exec (.movRegRmDirect w reg rm) s = .next { s with
          opc := s.cfg.opcRr6 ++ 1#1 ++ BitVec.ofBool w, modb := 0b11#2 ++ reg ++ rm,
          pos := s.pos + 2, st := .fetch,
          trace := s.trace ++ [.instr ⟨.mov, .reg (regIdx reg w), .reg (regIdx rm w)⟩] } ∧
      RaisesEosAfter s.cfg (.movRegRmDirect w reg rm) 1 ∧
      shownText [0x8B#8, 0xC1#8] = some ['m', 'o', 'v', ' ', 'a', 'x', ',', ' ', 'c', 'x'] ∧
      shownText [0x8A#8, 0xC1#8] = some ['m', 'o', 'v', ' ', 'a', 'l', ',', ' ', 'c', 'l']

/-- 42_mov_rm_reg.md R172: the encoding, the length, the result, the exceptions and the worked examples of
MOV_RM_REG memory without displacement. The next state is whole: no flag and nothing else of the state changes. -/
def Obligations.RmRegMemMovesRegisterToMemory : Prop :=
  ∀ (w : Bool) (reg rm : Code3) (s : State),
    rm ≠ 0b110#3 →
      encode s.cfg (.movRmRegMem w reg rm) = [s.cfg.opcRr6 ++ 0#1 ++ BitVec.ofBool w, 0b00#2 ++ reg ++ rm] ∧
      (encode s.cfg (.movRmRegMem w reg rm)).length = 2 ∧
      Instr.WellFormed s.cfg (.movRmRegMem w reg 0b110#3) = false ∧
      exec (.movRmRegMem w reg rm) s = .next { s with
          opc := s.cfg.opcRr6 ++ 0#1 ++ BitVec.ofBool w, modb := 0b00#2 ++ reg ++ rm,
          pos := s.pos + 2, st := .fetch,
          trace := s.trace ++ [.instr ⟨.mov, .mem (bases rm) none, .reg (regIdx reg w)⟩] } ∧
      RaisesEosAfter s.cfg (.movRmRegMem w reg rm) 1 ∧
      shownText [0x89#8, 0x07#8] = some ['m', 'o', 'v', ' ', '[', 'b', 'x', ']', ',', ' ', 'a', 'x'] ∧
      shownText [0x88#8, 0x0C#8] = some ['m', 'o', 'v', ' ', '[', 's', 'i', ']', ',', ' ', 'c', 'l']

/-- 42_mov_rm_reg.md R173: the encoding, the length, the result, the exceptions and the worked examples of
MOV_REG_RM memory without displacement. The next state is whole: no flag and nothing else of the state changes. -/
def Obligations.RegRmMemMovesMemoryToRegister : Prop :=
  ∀ (w : Bool) (reg rm : Code3) (s : State),
    rm ≠ 0b110#3 →
      encode s.cfg (.movRegRmMem w reg rm) = [s.cfg.opcRr6 ++ 1#1 ++ BitVec.ofBool w, 0b00#2 ++ reg ++ rm] ∧
      (encode s.cfg (.movRegRmMem w reg rm)).length = 2 ∧
      Instr.WellFormed s.cfg (.movRegRmMem w reg 0b110#3) = false ∧
      exec (.movRegRmMem w reg rm) s = .next { s with
          opc := s.cfg.opcRr6 ++ 1#1 ++ BitVec.ofBool w, modb := 0b00#2 ++ reg ++ rm,
          pos := s.pos + 2, st := .fetch,
          trace := s.trace ++ [.instr ⟨.mov, .reg (regIdx reg w), .mem (bases rm) none⟩] } ∧
      RaisesEosAfter s.cfg (.movRegRmMem w reg rm) 1 ∧
      shownText [0x8B#8, 0x1A#8] = some ['m', 'o', 'v', ' ', 'b', 'x', ',', ' ', '[', 'b', 'p', ' ', '+', ' ', 's', 'i', ']'] ∧
      shownText [0x8A#8, 0x00#8] = some ['m', 'o', 'v', ' ', 'a', 'l', ',', ' ', '[', 'b', 'x', ' ', '+', ' ', 's', 'i', ']']

/-- 42_mov_rm_reg.md R174: the encoding, the length, the result, the exceptions and the worked examples of
MOV_RM_REG direct address. The next state is whole: no flag and nothing else of the state changes. -/
def Obligations.RmRegAddrMovesRegisterToDirectAddress : Prop :=
  ∀ (w : Bool) (reg : Code3) (addr : Word16) (s : State),
    encode s.cfg (.movRmRegAddr w reg addr) = [s.cfg.opcRr6 ++ 0#1 ++ BitVec.ofBool w, 0b00#2 ++ reg ++ 0b110#3, addr.extractLsb' 0 8, addr.extractLsb' 8 8] ∧
      (encode s.cfg (.movRmRegAddr w reg addr)).length = 4 ∧
      exec (.movRmRegAddr w reg addr) s = .next { s with
          opc := s.cfg.opcRr6 ++ 0#1 ++ BitVec.ofBool w, modb := 0b00#2 ++ reg ++ 0b110#3, lo := addr.extractLsb' 0 8,
          pos := s.pos + 4, st := .fetch,
          trace := s.trace ++ [.instr ⟨.mov, .mem [] (if addr = 0 then none else some addr), .reg (regIdx reg w)⟩] } ∧
      RaisesEosAfter s.cfg (.movRmRegAddr w reg addr) 1 ∧
      RaisesEosAfter s.cfg (.movRmRegAddr w reg addr) 2 ∧
      RaisesEosAfter s.cfg (.movRmRegAddr w reg addr) 3 ∧
      shownText [0x89#8, 0x0E#8, 0x34#8, 0x12#8] = some ['m', 'o', 'v', ' ', '[', '4', '6', '6', '0', ']', ',', ' ', 'c', 'x'] ∧
      shownText [0x89#8, 0x06#8, 0x00#8, 0x00#8] = some ['m', 'o', 'v', ' ', '[', ']', ',', ' ', 'a', 'x']

/-- 42_mov_rm_reg.md R175: the encoding, the length, the result, the exceptions and the worked examples of
MOV_REG_RM direct address. The next state is whole: no flag and nothing else of the state changes. -/
def Obligations.RegRmAddrMovesDirectAddressToRegister : Prop :=
  ∀ (w : Bool) (reg : Code3) (addr : Word16) (s : State),
    encode s.cfg (.movRegRmAddr w reg addr) = [s.cfg.opcRr6 ++ 1#1 ++ BitVec.ofBool w, 0b00#2 ++ reg ++ 0b110#3, addr.extractLsb' 0 8, addr.extractLsb' 8 8] ∧
      (encode s.cfg (.movRegRmAddr w reg addr)).length = 4 ∧
      exec (.movRegRmAddr w reg addr) s = .next { s with
          opc := s.cfg.opcRr6 ++ 1#1 ++ BitVec.ofBool w, modb := 0b00#2 ++ reg ++ 0b110#3, lo := addr.extractLsb' 0 8,
          pos := s.pos + 4, st := .fetch,
          trace := s.trace ++ [.instr ⟨.mov, .reg (regIdx reg w), .mem [] (if addr = 0 then none else some addr)⟩] } ∧
      RaisesEosAfter s.cfg (.movRegRmAddr w reg addr) 1 ∧
      RaisesEosAfter s.cfg (.movRegRmAddr w reg addr) 2 ∧
      RaisesEosAfter s.cfg (.movRegRmAddr w reg addr) 3 ∧
      shownText [0x8B#8, 0x06#8, 0x34#8, 0x12#8] = some ['m', 'o', 'v', ' ', 'a', 'x', ',', ' ', '[', '4', '6', '6', '0', ']'] ∧
      shownText [0x8B#8, 0x06#8, 0x00#8, 0x00#8] = some ['m', 'o', 'v', ' ', 'a', 'x', ',', ' ', '[', ']']

/-- 42_mov_rm_reg.md R176: the encoding, the length, the result, the exceptions and the worked examples of
MOV_RM_REG memory with 1-octet displacement. The next state is whole: no flag and nothing else of the state changes. -/
def Obligations.RmRegDisp8MovesRegisterToMemory : Prop :=
  ∀ (w : Bool) (reg rm : Code3) (d8 : Byte) (s : State),
    encode s.cfg (.movRmRegDisp8 w reg rm d8) = [s.cfg.opcRr6 ++ 0#1 ++ BitVec.ofBool w, 0b01#2 ++ reg ++ rm, d8] ∧
      (encode s.cfg (.movRmRegDisp8 w reg rm d8)).length = 3 ∧
      exec (.movRmRegDisp8 w reg rm d8) s = .next { s with
          opc := s.cfg.opcRr6 ++ 0#1 ++ BitVec.ofBool w, modb := 0b01#2 ++ reg ++ rm,
          pos := s.pos + 3, st := .fetch,
          trace := s.trace ++ [.instr ⟨.mov, .mem (bases rm) (if d8 = 0 then none else some (d8.zeroExtend 16)), .reg (regIdx reg w)⟩] } ∧
      RaisesEosAfter s.cfg (.movRmRegDisp8 w reg rm d8) 1 ∧
      RaisesEosAfter s.cfg (.movRmRegDisp8 w reg rm d8) 2 ∧
      shownText [0x89#8, 0x40#8, 0x05#8] = some ['m', 'o', 'v', ' ', '[', 'b', 'x', ' ', '+', ' ', 's', 'i', ' ', '+', ' ', '5', ']', ',', ' ', 'a', 'x'] ∧
      shownText [0x88#8, 0x6E#8, 0x00#8] = some ['m', 'o', 'v', ' ', '[', 'b', 'p', ']', ',', ' ', 'c', 'h']

/-- 42_mov_rm_reg.md R177: the encoding, the length, the result, the exceptions and the worked examples of
MOV_REG_RM memory with 1-octet displacement. The next state is whole: no flag and nothing else of the state changes. -/
def Obligations.RegRmDisp8MovesMemoryToRegister : Prop :=
  ∀ (w : Bool) (reg rm : Code3) (d8 : Byte) (s : State),
    encode s.cfg (.movRegRmDisp8 w reg rm d8) = [s.cfg.opcRr6 ++ 1#1 ++ BitVec.ofBool w, 0b01#2 ++ reg ++ rm, d8] ∧
      (encode s.cfg (.movRegRmDisp8 w reg rm d8)).length = 3 ∧
      exec (.movRegRmDisp8 w reg rm d8) s = .next { s with
          opc := s.cfg.opcRr6 ++ 1#1 ++ BitVec.ofBool w, modb := 0b01#2 ++ reg ++ rm,
          pos := s.pos + 3, st := .fetch,
          trace := s.trace ++ [.instr ⟨.mov, .reg (regIdx reg w), .mem (bases rm) (if d8 = 0 then none else some (d8.zeroExtend 16))⟩] } ∧
      RaisesEosAfter s.cfg (.movRegRmDisp8 w reg rm d8) 1 ∧
      RaisesEosAfter s.cfg (.movRegRmDisp8 w reg rm d8) 2 ∧
      shownText [0x8B#8, 0x40#8, 0x05#8] = some ['m', 'o', 'v', ' ', 'a', 'x', ',', ' ', '[', 'b', 'x', ' ', '+', ' ', 's', 'i', ' ', '+', ' ', '5', ']'] ∧
      shownText [0x8B#8, 0x40#8, 0x00#8] = some ['m', 'o', 'v', ' ', 'a', 'x', ',', ' ', '[', 'b', 'x', ' ', '+', ' ', 's', 'i', ']'] ∧
      shownText [0x8B#8, 0x46#8, 0xFB#8] = some ['m', 'o', 'v', ' ', 'a', 'x', ',', ' ', '[', 'b', 'p', ' ', '+', ' ', '2', '5', '1', ']']

/-- 42_mov_rm_reg.md R178: the encoding, the length, the result, the exceptions and the worked examples of
MOV_RM_REG memory with 2-octet displacement. The next state is whole: no flag and nothing else of the state changes. -/
def Obligations.RmRegDisp16MovesRegisterToMemory : Prop :=
  ∀ (w : Bool) (reg rm : Code3) (d16 : Word16) (s : State),
    encode s.cfg (.movRmRegDisp16 w reg rm d16) = [s.cfg.opcRr6 ++ 0#1 ++ BitVec.ofBool w, 0b10#2 ++ reg ++ rm, d16.extractLsb' 0 8, d16.extractLsb' 8 8] ∧
      (encode s.cfg (.movRmRegDisp16 w reg rm d16)).length = 4 ∧
      exec (.movRmRegDisp16 w reg rm d16) s = .next { s with
          opc := s.cfg.opcRr6 ++ 0#1 ++ BitVec.ofBool w, modb := 0b10#2 ++ reg ++ rm, lo := d16.extractLsb' 0 8,
          pos := s.pos + 4, st := .fetch,
          trace := s.trace ++ [.instr ⟨.mov, .mem (bases rm) (if d16 = 0 then none else some d16), .reg (regIdx reg w)⟩] } ∧
      RaisesEosAfter s.cfg (.movRmRegDisp16 w reg rm d16) 1 ∧
      RaisesEosAfter s.cfg (.movRmRegDisp16 w reg rm d16) 2 ∧
      RaisesEosAfter s.cfg (.movRmRegDisp16 w reg rm d16) 3 ∧
      shownText [0x89#8, 0x94#8, 0xE8#8, 0x03#8] = some ['m', 'o', 'v', ' ', '[', 's', 'i', ' ', '+', ' ', '1', '0', '0', '0', ']', ',', ' ', 'd', 'x']

/-- 42_mov_rm_reg.md R179: the encoding, the length, the result, the exceptions and the worked examples of
MOV_REG_RM memory with 2-octet displacement. The next state is whole: no flag and nothing else of the state changes. -/
def Obligations.RegRmDisp16MovesMemoryToRegister : Prop :=
  ∀ (w : Bool) (reg rm : Code3) (d16 : Word16) (s : State),
    encode s.cfg (.movRegRmDisp16 w reg rm d16) = [s.cfg.opcRr6 ++ 1#1 ++ BitVec.ofBool w, 0b10#2 ++ reg ++ rm, d16.extractLsb' 0 8, d16.extractLsb' 8 8] ∧
      (encode s.cfg (.movRegRmDisp16 w reg rm d16)).length = 4 ∧
      exec (.movRegRmDisp16 w reg rm d16) s = .next { s with
          opc := s.cfg.opcRr6 ++ 1#1 ++ BitVec.ofBool w, modb := 0b10#2 ++ reg ++ rm, lo := d16.extractLsb' 0 8,
          pos := s.pos + 4, st := .fetch,
          trace := s.trace ++ [.instr ⟨.mov, .reg (regIdx reg w), .mem (bases rm) (if d16 = 0 then none else some d16)⟩] } ∧
      RaisesEosAfter s.cfg (.movRegRmDisp16 w reg rm d16) 1 ∧
      RaisesEosAfter s.cfg (.movRegRmDisp16 w reg rm d16) 2 ∧
      RaisesEosAfter s.cfg (.movRegRmDisp16 w reg rm d16) 3 ∧
      shownText [0x8B#8, 0x97#8, 0x00#8, 0x01#8] = some ['m', 'o', 'v', ' ', 'd', 'x', ',', ' ', '[', 'b', 'x', ' ', '+', ' ', '2', '5', '6', ']'] ∧
      shownText [0x8B#8, 0x80#8, 0xFF#8, 0xFF#8] = some ['m', 'o', 'v', ' ', 'a', 'x', ',', ' ', '[', 'b', 'x', ' ', '+', ' ', 's', 'i', ' ', '+', ' ', '6', '5', '5', '3', '5', ']'] ∧
      shownText [0x8B#8, 0x80#8, 0x00#8, 0x00#8] = some ['m', 'o', 'v', ' ', 'a', 'x', ',', ' ', '[', 'b', 'x', ' ', '+', ' ', 's', 'i', ']']

/-- 43_mov_reg_imm.md R200: the encoding, the length, the result, the exceptions and the worked examples of
MOV_REG_IMM byte. The next state is whole: no flag and nothing else of the state changes. -/
def Obligations.RegImm8MovesByteToRegister : Prop :=
  ∀ (reg : Code3) (data : Byte) (s : State),
    encode s.cfg (.movRegImm8 reg data) = [s.cfg.opcImm4 ++ 0#1 ++ reg, data] ∧
      (encode s.cfg (.movRegImm8 reg data)).length = 2 ∧
      (immOpcode Config.default false reg).toNat = 0xB0 + reg.toNat ∧ (regIdx reg false).toNat = reg.toNat ∧
      exec (.movRegImm8 reg data) s = .next { s with
          opc := s.cfg.opcImm4 ++ 0#1 ++ reg,
          pos := s.pos + 2, st := .fetch,
          trace := s.trace ++ [.instr ⟨.mov, .reg (regIdx reg false), .imm (data.zeroExtend 16)⟩] } ∧
      RaisesEosAfter s.cfg (.movRegImm8 reg data) 1 ∧
      shownText [0xB0#8, 0x2A#8] = some ['m', 'o', 'v', ' ', 'a', 'l', ',', ' ', '4', '2'] ∧
      shownText [0xB7#8, 0xFF#8] = some ['m', 'o', 'v', ' ', 'b', 'h', ',', ' ', '2', '5', '5'] ∧
      shownText [0xB0#8, 0x00#8] = some ['m', 'o', 'v', ' ', 'a', 'l', ',', ' ', '0']

/-- 43_mov_reg_imm.md R201: the encoding, the length, the result, the exceptions and the worked examples of
MOV_REG_IMM word. The next state is whole: no flag and nothing else of the state changes. -/
def Obligations.RegImm16MovesWordToRegister : Prop :=
  ∀ (reg : Code3) (data : Word16) (s : State),
    encode s.cfg (.movRegImm16 reg data) = [s.cfg.opcImm4 ++ 1#1 ++ reg, data.extractLsb' 0 8, data.extractLsb' 8 8] ∧
      (encode s.cfg (.movRegImm16 reg data)).length = 3 ∧
      (immOpcode Config.default true reg).toNat = 0xB8 + reg.toNat ∧ (regIdx reg true).toNat = 8 + reg.toNat ∧
      exec (.movRegImm16 reg data) s = .next { s with
          opc := s.cfg.opcImm4 ++ 1#1 ++ reg, lo := data.extractLsb' 0 8,
          pos := s.pos + 3, st := .fetch,
          trace := s.trace ++ [.instr ⟨.mov, .reg (regIdx reg true), .imm data⟩] } ∧
      RaisesEosAfter s.cfg (.movRegImm16 reg data) 1 ∧
      (s.cfg.Disjoint → RaisesEosAfter s.cfg (.movRegImm16 reg data) 2) ∧
      shownText [0xB8#8, 0x34#8, 0x12#8] = some ['m', 'o', 'v', ' ', 'a', 'x', ',', ' ', '4', '6', '6', '0'] ∧
      shownText [0xBF#8, 0xFF#8, 0xFF#8] = some ['m', 'o', 'v', ' ', 'd', 'i', ',', ' ', '6', '5', '5', '3', '5'] ∧
      shownText [0xB9#8, 0x0C#8, 0x00#8] = some ['m', 'o', 'v', ' ', 'c', 'x', ',', ' ', '1', '2'] ∧
      shownText [0xB8#8, 0x00#8, 0x00#8] = some ['m', 'o', 'v', ' ', 'a', 'x', ',', ' ', '0'] ∧
      shownText [0xB8#8, 0x2A#8, 0x00#8] = some ['m', 'o', 'v', ' ', 'a', 'x', ',', ' ', '4', '2']

/-- 41_opcode_classifier.md R133: the catch-all row. Its meaning completes with UnsupportedOpcode raised, and a step that
meets an unsupported first byte consumes exactly that one octet, whatever follows it. -/
def Obligations.UnsupportedConsumesOneOctet : Prop :=
  ∀ (b : Byte) (s : State),
    exec (.unsupported b) s = .next { s with
        unsupSeen := true, pos := s.pos + 1, st := .fetch, trace := s.trace ++ [.errUnsupported b] } ∧
      (s.st = .fetch → s.source.ended = false → s.source.octet s.pos = some b →
        classify s.cfg b = .unsupported →
        step s = .next { s with
          unsupSeen := true, pos := s.pos + 1, st := .fetch, trace := s.trace ++ [.errUnsupported b] })

/-! ## Frames -/

/-- What the `RM` rows without a 2-octet displacement leave unchanged (R140, R150, R57): the latch `lo`, both sticky
flags, the parameters, the byte source and every octet of it, and the earlier events. -/
def Obligations.ShortRmFrame : Prop :=
  ∀ (w : Bool) (reg rm : Code3) (d8 : Byte) (s t : State),
    (exec (.movRmRegDirect w reg rm) s = .next t ∨ exec (.movRegRmDirect w reg rm) s = .next t ∨
      exec (.movRmRegMem w reg rm) s = .next t ∨ exec (.movRegRmMem w reg rm) s = .next t ∨
      exec (.movRmRegDisp8 w reg rm d8) s = .next t ∨ exec (.movRegRmDisp8 w reg rm d8) s = .next t) →
    t.lo = s.lo ∧ t.unsupSeen = s.unsupSeen ∧ t.eosFault = s.eosFault ∧ t.cfg = s.cfg ∧
      t.source = s.source ∧ (∀ n, t.source.octet n = s.source.octet n) ∧ ∃ e, t.trace = s.trace ++ [e]

/-- What the `RM` rows with a 2-octet displacement leave unchanged: both sticky flags, the parameters, the byte source
and every octet of it, and the earlier events. The three latches are all written. -/
def Obligations.LongRmFrame : Prop :=
  ∀ (w : Bool) (reg rm : Code3) (v : Word16) (s t : State),
    (exec (.movRmRegAddr w reg v) s = .next t ∨ exec (.movRegRmAddr w reg v) s = .next t ∨
      exec (.movRmRegDisp16 w reg rm v) s = .next t ∨ exec (.movRegRmDisp16 w reg rm v) s = .next t) →
    t.unsupSeen = s.unsupSeen ∧ t.eosFault = s.eosFault ∧ t.cfg = s.cfg ∧
      t.source = s.source ∧ (∀ n, t.source.octet n = s.source.octet n) ∧ ∃ e, t.trace = s.trace ++ [e]

/-- What the `IMM` rows leave unchanged: the latch `modb`, for the byte row also `lo`, both sticky flags, the
parameters, the byte source and every octet of it, and the earlier events. -/
def Obligations.ImmFrame : Prop :=
  ∀ (reg : Code3) (d8 : Byte) (d16 : Word16) (s t : State),
    (exec (.movRegImm8 reg d8) s = .next t → t.lo = s.lo) ∧
      ((exec (.movRegImm8 reg d8) s = .next t ∨ exec (.movRegImm16 reg d16) s = .next t) →
        t.modb = s.modb ∧ t.unsupSeen = s.unsupSeen ∧ t.eosFault = s.eosFault ∧ t.cfg = s.cfg ∧
          t.source = s.source ∧ (∀ n, t.source.octet n = s.source.octet n) ∧ ∃ e, t.trace = s.trace ++ [e])

/-- What the catch-all row leaves unchanged (60_exceptions.md R236, R237): the three latches, `eos_fault`, the
parameters, the byte source and every octet of it, and the earlier events. -/
def Obligations.UnsupportedFrame : Prop :=
  ∀ (b : Byte) (s t : State), exec (.unsupported b) s = .next t →
    t.opc = s.opc ∧ t.modb = s.modb ∧ t.lo = s.lo ∧ t.eosFault = s.eosFault ∧ t.cfg = s.cfg ∧
      t.source = s.source ∧ (∀ n, t.source.octet n = s.source.octet n) ∧ ∃ e, t.trace = s.trace ++ [e]

/-! ## The step -/

/-- A step runs the decoded instruction: from `FETCH`, when the octets ahead decode to `i`, the step is `exec` of `i`
at that state; the model's step adds nothing around it (41_opcode_classifier.md R132, R141). -/
def Obligations.StepRunsDecodedInstruction : Prop :=
  ∀ (s : State) (i : Instr) (rest : List Byte),
    s.st = .fetch → s.source.ended = false → decode s.cfg (fetchOctets s) = .ok i rest →
      i.WellFormed s.cfg = true → step s = exec i s

/-- 20_memory.md R50: the byte source's contract. The clause that marks the source as having answered `EOS`
(`ended`) is no rule of the spec: it is the model's choice, log entry 4. -/
def Obligations.NextOctetContract : Prop :=
  ∀ s : State,
    (∀ b, s.source.octet s.pos = some b → nextOctet s = (.byte b, { s with pos := s.pos + 1 })) ∧
      (s.source.octet s.pos = none →
        nextOctet s = (.eos, { s with source := { s.source with ended := true } })) ∧
      (∀ l n, s.source.length = some l → (s.source.octet n = none ↔ l ≤ n)) ∧
      (s.source.length = none → ∀ n, s.source.octet n ≠ none)

/-- 41_opcode_classifier.md R140: the small-step machine, arm by arm, under `EOS_POLICY = abort`. That the two
`EOS` arms mark the source as having answered `EOS` (`ended`) is the model's choice, log entry 4. -/
def Obligations.OctetStepArms : Prop :=
  ∀ s : State, s.source.ended = false → s.cfg.eosPolicy = .abort →
    (∀ b, s.source.octet s.pos = some b →
      (s.st = .fetch → classify s.cfg b = .rm →
        octetStep s = .next { s with pos := s.pos + 1, opc := b, st := .mode }) ∧
      (s.st = .fetch → classify s.cfg b = .imm →
        octetStep s = .next { s with pos := s.pos + 1, opc := b, st := .immLo }) ∧
      (s.st = .fetch → classify s.cfg b = .unsupported →
        octetStep s = .next { s with
          pos := s.pos + 1, st := .fetch, unsupSeen := true, trace := s.trace ++ [.errUnsupported b] }) ∧
      (s.st = .mode → ndisp (b.extractLsb' 6 2) (b.extractLsb' 0 3) = 0 →
        octetStep s = .next { s with
          pos := s.pos + 1, modb := b, st := .fetch, trace := s.trace ++ [.instr (buildRm s.opc b none)] }) ∧
      (s.st = .mode → ndisp (b.extractLsb' 6 2) (b.extractLsb' 0 3) ≠ 0 →
        octetStep s = .next { s with pos := s.pos + 1, modb := b, st := .dispLo }) ∧
      (s.st = .dispLo → ndisp (s.modb.extractLsb' 6 2) (s.modb.extractLsb' 0 3) = 1 →
        octetStep s = .next { s with
          pos := s.pos + 1, st := .fetch,
          trace := s.trace ++ [.instr (buildRm s.opc s.modb (some (b.zeroExtend 16)))] }) ∧
      (s.st = .dispLo → ndisp (s.modb.extractLsb' 6 2) (s.modb.extractLsb' 0 3) ≠ 1 →
        octetStep s = .next { s with pos := s.pos + 1, lo := b, st := .dispHi }) ∧
      (s.st = .dispHi →
        octetStep s = .next { s with
          pos := s.pos + 1, st := .fetch, trace := s.trace ++ [.instr (buildRm s.opc s.modb (some (b ++ s.lo)))] }) ∧
      (s.st = .immLo → s.opc.getLsbD 3 = false →
        octetStep s = .next { s with
          pos := s.pos + 1, st := .fetch, trace := s.trace ++ [.instr (buildImm s.opc (b.zeroExtend 16))] }) ∧
      (s.st = .immLo → s.opc.getLsbD 3 = true →
        octetStep s = .next { s with pos := s.pos + 1, lo := b, st := .immHi }) ∧
      (s.st = .immHi →
        octetStep s = .next { s with
          pos := s.pos + 1, st := .fetch, trace := s.trace ++ [.instr (buildImm s.opc (b ++ s.lo))] })) ∧
    (s.source.octet s.pos = none →
      (s.st = .fetch →
        octetStep s = .next { s with
          source := { s.source with ended := true }, st := .haltEnd, trace := s.trace ++ [.endOfRun] }) ∧
      (s.st = .mode ∨ s.st = .dispLo ∨ s.st = .dispHi ∨ s.st = .immLo ∨ s.st = .immHi →
        octetStep s = .next { s with
          source := { s.source with ended := true }, st := .haltFault, eosFault := true,
          trace := s.trace ++ [.errEos] })) ∧
    (s.st = .haltEnd ∨ s.st = .haltFault → ∀ t, octetStep s ≠ .next t)

/-- 41_opcode_classifier.md R140: every small step consumes at most one octet, exactly one on a byte answer and none on
`EOS`, and emits at most one event, exactly when the attempt is over. That the source is then marked as having answered
`EOS` (`ended`) is the model's choice, log entry 4. -/
def Obligations.OctetStepConsumesAtMostOne : Prop :=
  ∀ s t : State, octetStep s = .next t →
    ((s.source.octet s.pos ≠ none ∧ t.pos = s.pos + 1 ∧ t.source = s.source) ∨
        (s.source.octet s.pos = none ∧ t.pos = s.pos ∧ t.source.ended = true)) ∧
      ((t.st.inside = true ∧ t.trace = s.trace) ∨ (t.st.inside = false ∧ ∃ e, t.trace = s.trace ++ [e]))

/-- The big step is the small steps of one attempt (00_scope.md R11; 41_opcode_classifier.md R140, R141): at every
state, whatever its latches, flags, cursor and stream. -/
def Obligations.BigStepIsTheOctetSteps : Prop := ∀ s : State, step s = finishAttempt 4 s

/-- Each decode attempt ends in exactly one event, outside an instruction, after at most four octets (10_state.md R32;
30_encoding.md R84). -/
def Obligations.AttemptEmitsOneEvent : Prop :=
  ∀ s t : State, step s = .next t →
    (∃ e, t.trace = s.trace ++ [e]) ∧ t.st.inside = false ∧ s.pos ≤ t.pos ∧ t.pos ≤ s.pos + 4

/-- 20_memory.md R65: on a finite stream of length `l` every run ends, after exactly `l` byte answers and one `EOS`
answer; on an endless stream it never ends. Under `EOS_POLICY = abort`. That every request is answered is the model's
assumption, log entry 10 (unsafe for a claim that a run ends, such as this one), and the clauses about `ended` are the
model's own mark, log entry 4. -/
def Obligations.FiniteStreamEndsTheRun : Prop :=
  (∀ (s : State) (l : Nat), s.st.terminal = false → s.source.ended = false → s.cfg.eosPolicy = .abort →
      s.source.length = some l → s.pos ≤ l →
      (∀ k, k ≤ l - s.pos → ∃ u, octetRun k s = .next u ∧ u.st.terminal = false ∧ u.pos = s.pos + k ∧
        u.source.ended = false) ∧
      ∃ t, octetRun (l - s.pos + 1) s = .next t ∧ t.st.terminal = true ∧ t.pos = l ∧ t.source.ended = true) ∧
    ∀ s : State, s.st.terminal = false → s.source.ended = false → s.source.length = none →
      ∀ k, ∃ u, octetRun k s = .next u ∧ u.st.terminal = false ∧ u.pos = s.pos + k

/-! ## Errors and ends -/

/-- 60_exceptions.md R236: what raising each error does, all of it. -/
def Obligations.ErrorEntry : Prop :=
  ∀ (b : Byte) (s : State),
    raiseUnsupported b s = { s with unsupSeen := true, st := .fetch, trace := s.trace ++ [.errUnsupported b] } ∧
      (s.cfg.eosPolicy = .abort →
        raiseEos s = { s with eosFault := true, st := .haltFault, trace := s.trace ++ [.errEos] })

/-- 60_exceptions.md R232: end-of-stream after `k` octets of an instruction raises UnexpectedEndOfStream, returns no
instruction and leaves the consumed octets consumed, the cursor at the stream's length. Under `EOS_POLICY = abort`. -/
def Obligations.TruncationRaisesEos : Prop :=
  ∀ (i : Instr) (k : Nat) (s : State),
    i.WellFormed s.cfg = true → i.isSupported = true → 1 ≤ k → k < i.size →
    s.st = .fetch → s.source.ended = false → s.cfg.eosPolicy = .abort →
    fetchOctets s = (encode s.cfg i).take k →
    ∃ t, step s = .next t ∧ t.trace = s.trace ++ [.errEos] ∧ t.eosFault = true ∧ t.unsupSeen = s.unsupSeen ∧
      t.st = .haltFault ∧ t.pos = s.pos + k ∧ t.source.length = some t.pos ∧ t.cfg = s.cfg ∧
      (∀ n, t.source.octet n = s.source.octet n)

/-- 60_exceptions.md R233: end-of-stream at the first byte is the normal end and sets no flag; the same answer in every
other state is an error. That the `FETCH` clause marks the source as having answered
`EOS` (`ended`) is the model's choice, log entry 4. -/
def Obligations.EndOfStreamByState : Prop :=
  ∀ s : State, s.source.ended = false → s.source.octet s.pos = none →
    (s.st = .fetch →
      step s = .next { s with
        source := { s.source with ended := true }, st := .haltEnd, trace := s.trace ++ [.endOfRun] }) ∧
    (s.st.inside = true →
      ∃ t, step s = .next t ∧ t.trace = s.trace ++ [.errEos] ∧ t.eosFault = true ∧ t.pos = s.pos)

/-- Where the machine stops: the terminal states have no step (41_opcode_classifier.md R140; the model's faults,
log entry 14), and a source that has answered `EOS` is not asked again (20_memory.md R52; log entry 4). -/
def Obligations.WhereTheMachineStops : Prop :=
  ∀ s : State,
    (s.st = .haltEnd → step s = .fault .haltEnd ∧ octetStep s = .fault .haltEnd) ∧
      (s.st = .haltFault → step s = .fault .haltFault ∧ octetStep s = .fault .haltFault) ∧
      (s.st.terminal = false → s.source.ended = true →
        step s = .refused .requestAfterEos ∧ octetStep s = .refused .requestAfterEos) ∧
      (s.st.terminal = false → s.source.ended = false → ∃ t, step s = .next t)

/-- How a run that keeps the invariant ends. Under `EOS_POLICY = abort` the byte source is never asked again after it
has answered `EOS` (20_memory.md R52), and a clean end (10_state.md R24) has one `INSTR` event per decode attempt,
each producible, and then `END`. -/
def Obligations.EndsOfARun : Prop :=
  (∀ s : State, Inv s → s.cfg.eosPolicy = .abort → ∀ r, step s ≠ .refused r ∧ octetStep s ≠ .refused r) ∧
    ∀ s : State, Inv s → s.cleanEnd →
      ∃ p : List Instruction, s.trace = p.map Event.instr ++ [.endOfRun] ∧ ∀ i ∈ p, i.Producible

/-! ## Invariants -/

/-- Every step keeps the machine's invariant (`Inv`): the byte source's canonical form and the cursor within it, the
meaning of the latches inside an instruction, the trace's shape, the sticky flags as the record of its errors, and
that every event is one the decoder can produce (10_state.md R21, R24, R26, R29, R30, R32). The mark `ended` and
what it says under the policy `resume` are the model's, log entries 4 and 6. -/
def Obligations.StepKeepsInvariant : Prop := ∀ s t : State, Inv s → step s = .next t → Inv t

/-- Every small step keeps it too. -/
def Obligations.OctetStepKeepsInvariant : Prop := ∀ s t : State, Inv s → octetStep s = .next t → Inv t

/-- It holds right after reset, with any parameters and any byte source in canonical form that has not answered
`EOS`, and at `State.reset`, whose byte source and latches are the model's choice (log entries 1 and 2). -/
def Obligations.ResetMeetsInvariant : Prop :=
  Inv State.reset ∧
    ∀ (c : Config) (src : ByteSource), src.wf = true → src.ended = false → Inv (State.start c src)

/-- No step changes the parameters or the byte stream: the decoder writes no memory (20_memory.md R57, R63;
70_reset_and_hazards.md R261), and no sticky flag is cleared (10_state.md R24). -/
def Obligations.StepWritesNoMemory : Prop :=
  ∀ s t : State, step s = .next t →
    t.cfg = s.cfg ∧ t.source.octets = s.source.octets ∧ t.source.length = s.source.length ∧
      (∀ n, t.source.octet n = s.source.octet n) ∧
      (s.unsupSeen = true → t.unsupSeen = true) ∧ (s.eosFault = true → t.eosFault = true)

/-! ## What cannot be observed -/

/-- The latches' values between instructions are unobservable (10_state.md R22: no rule reads a latch before the rule
that writes it): from `FETCH`, whatever the latches hold, the steps do the same to everything but the latches. So
no run depends on the values that the model gives them at reset (log entry 1). -/
def Obligations.LatchesAreUnobservable : Prop :=
  ∀ (k : Nat) (s t : State) (o m l : Byte), s.st = .fetch → core.run k s = .next t →
    ∃ t', core.run k (s.withLatches o m l) = .next t' ∧ t'.view = t.view

/-- No lookahead and no alignment (20_memory.md R56, R63; 70_reset_and_hazards.md R267): a step whose attempt does not
meet the end of the stream is the same on every byte source and at every position with the same octets up to where
the cursor stands after it. -/
def Obligations.OnlyConsumedOctetsMatter : Prop :=
  ∀ (s t : State) (p : Nat) (src : ByteSource), s.st = .fetch → step s = .next t → t.source.ended = false →
    src.ended = false → (∀ k, s.pos + k < t.pos → src.octet (p + k) = s.source.octet (s.pos + k)) →
    step { s with source := src, pos := p } = .next { t with source := src, pos := p + (t.pos - s.pos) }

/-! ## Whole streams -/

/-- 41_opcode_classifier.md R144: a stream that is a concatenation of supported instructions and then ends gives one
`INSTR` event per instruction, in stream order, then `END`, and no flag is set. -/
def Obligations.CleanStreamDecodes : Prop :=
  ∀ (p : List Instr) (s : State), s.st = .fetch → s.source.ended = false →
    (∀ i ∈ p, i.WellFormed s.cfg = true ∧ i.isSupported = true) →
    (∀ k, s.source.octet (s.pos + k) = (p.flatMap (encode s.cfg))[k]?) →
    ∃ t, core.run (p.length + 1) s = .next t ∧
      t.trace = s.trace ++ p.filterMap eventOf ++ [.endOfRun] ∧ (p.filterMap eventOf).length = p.length ∧
      (∀ e ∈ p.filterMap eventOf, ∃ j, e = .instr j) ∧
      t.st = .haltEnd ∧ t.pos = s.pos + (p.flatMap (encode s.cfg)).length ∧
      t.unsupSeen = s.unsupSeen ∧ t.eosFault = s.eosFault

/-! ## Reset -/

/-- 10_state.md R38, and the codes of R23: the values the spec gives for the state after reset. The latches are
unspecified there; the values the model gives them (log entry 1) are no part of this statement. -/
def Obligations.StateAfterReset : Prop :=
  (∀ (c : Config) (src : ByteSource),
      (State.start c src).st = .fetch ∧ (State.start c src).unsupSeen = false ∧
        (State.start c src).eosFault = false ∧ (State.start c src).pos = 0 ∧ (State.start c src).trace = [] ∧
        (State.start c src).cfg = c ∧ (State.start c src).source = src) ∧
    State.reset = State.start Config.default State.reset.source ∧
    [SeqState.fetch, .mode, .dispLo, .dispHi, .immLo, .immHi, .haltEnd, .haltFault].map SeqState.code =
      [0#3, 1#3, 2#3, 3#3, 4#3, 5#3, 6#3, 7#3]

/-! ## The observation functions -/

/-- 44_renderer.md R210, R211, R212, R214: the text of an instruction and of each shape of operand. -/
def Obligations.RenderedText : Prop :=
  (∀ (c : Config) (a b : Operand),
      render c ⟨.mov, a, b⟩ = ['m', 'o', 'v'] ++ [' '] ++ renderOp c a ++ [',', ' '] ++ renderOp c b) ∧
    (∀ (c : Config) (n : RegIdx), renderOp c (.reg n) = (rom n).text) ∧
    (∀ (c : Config) (v : Word16), renderOp c (.imm v) = dec v) ∧
    (∀ (c : Config) (x y : RegIdx) (v : Word16),
      renderOp c (.mem [x] none) = ['['] ++ (rom x).text ++ [']'] ∧
        renderOp c (.mem [x, y] none) = ['['] ++ (rom x).text ++ [' ', '+', ' '] ++ (rom y).text ++ [']'] ∧
        renderOp c (.mem [x] (some v)) = ['['] ++ (rom x).text ++ [' ', '+', ' '] ++ dec v ++ [']'] ∧
        renderOp c (.mem [x, y] (some v)) =
          ['['] ++ (rom x).text ++ [' ', '+', ' '] ++ (rom y).text ++ [' ', '+', ' '] ++ dec v ++ [']'] ∧
        renderOp c (.mem [] (some v)) = ['['] ++ dec v ++ [']'] ∧
        renderOp c (.mem [] none) = c.emptyCalcText) ∧
    Config.default.emptyCalcText = ['[', ']'] ∧
    render Config.default ⟨.mov, .reg 8#4, .reg 9#4⟩ = ['m', 'o', 'v', ' ', 'a', 'x', ',', ' ', 'c', 'x'] ∧
    render Config.default ⟨.mov, .reg 0#4, .imm 0#16⟩ = ['m', 'o', 'v', ' ', 'a', 'l', ',', ' ', '0'] ∧
    render Config.default ⟨.mov, .reg 15#4, .imm 65535#16⟩ = ['m', 'o', 'v', ' ', 'd', 'i', ',', ' ', '6', '5', '5', '3', '5'] ∧
    render Config.default ⟨.mov, .reg 8#4, .mem [11#4] none⟩ = ['m', 'o', 'v', ' ', 'a', 'x', ',', ' ', '[', 'b', 'x', ']'] ∧
    render Config.default ⟨.mov, .mem [13#4, 15#4] none, .reg 6#4⟩ = ['m', 'o', 'v', ' ', '[', 'b', 'p', ' ', '+', ' ', 'd', 'i', ']', ',', ' ', 'd', 'h'] ∧
    render Config.default ⟨.mov, .reg 8#4, .mem [11#4, 14#4] (some 5#16)⟩ = ['m', 'o', 'v', ' ', 'a', 'x', ',', ' ', '[', 'b', 'x', ' ', '+', ' ', 's', 'i', ' ', '+', ' ', '5', ']'] ∧
    render Config.default ⟨.mov, .mem [] (some 4660#16), .reg 9#4⟩ = ['m', 'o', 'v', ' ', '[', '4', '6', '6', '0', ']', ',', ' ', 'c', 'x'] ∧
    render Config.default ⟨.mov, .reg 8#4, .mem [] none⟩ = ['m', 'o', 'v', ' ', 'a', 'x', ',', ' ', '[', ']']

/-- 44_renderer.md R213: `dec(v)` is 1 to 5 digits, most significant first, without a leading zero, and its value is
`v`, unsigned. -/
def Obligations.DecimalNumeral : Prop :=
  dec 0#16 = ['0'] ∧
    ∀ v : Word16, (dec v).all isDigit = true ∧ 1 ≤ (dec v).length ∧ (dec v).length ≤ 5 ∧
      (v ≠ 0#16 → (dec v).head? ≠ some '0') ∧
      (dec v).foldl (fun n ch => 10 * n + (ch.toNat - 48)) 0 = v.toNat

/-- 44_renderer.md R216: two different instructions that the decoder can produce never render alike, under the default
text of the empty calculation and under its named alternative. -/
def Obligations.RenderIsInjective : Prop :=
  ∀ (c : Config) (i j : Instruction), (c.emptyCalcText = ['[', ']'] ∨ c.emptyCalcText = ['[', '0', ']']) →
    i.Producible → j.Producible → render c i = render c j → i = j

/-- 44_renderer.md R218: the text of every instruction that the decoder can produce is a line of the grammar. -/
def Obligations.RenderedLineIsInGrammar : Prop :=
  ∀ (c : Config) (i : Instruction), i.Producible → GrammarLine c (render c i)

/-- 10_state.md R31, R32: the port form of every producible instruction reads back as it, with a tag below 3 and at
most 29 bits an operand; the reserved tag is refused; the kind codes are 0 to 3. -/
def Obligations.PortFormReadsBack : Prop :=
  (∀ i : Instruction, i.Producible →
      i.op1.toPort.read = some i.op1 ∧ i.op2.toPort.read = some i.op2 ∧
        i.op1.toPort.tag ≠ 3#2 ∧ i.op2.toPort.tag ≠ 3#2 ∧ i.op1.toPort.width ≤ 29 ∧ i.op2.toPort.width ≤ 29) ∧
    PortOperand.reserved.tag = 3#2 ∧ PortOperand.reserved.read = none ∧
    (∀ i b, (Event.instr i).toPort.kind = 0#2 ∧ (Event.errUnsupported b).toPort.kind = 1#2 ∧
      (Event.errUnsupported b).toPort.byte = some b ∧ Event.errEos.toPort.kind = 2#2 ∧
      Event.endOfRun.toPort.kind = 3#2)
end

