-- ==== Sys2Proof/Laws/Fields.lean ====
section
/-! SUPPORT. The fields of an assembled octet and the octet assembled from its fields, in both formats; the low and
the high octet of a value. Each is a closed fact about at most 8 bits, decided. -/

namespace Sys2Proof

/-! ## Format `RM` -/

@[simp] theorem opcD_rmOpcode (c : Config) (d w : Bool) : opcD (rmOpcode c d w) = d := by
  unfold rmOpcode
  generalize c.opcRr6 = x
  revert x d w
  decide

@[simp] theorem opcW_rmOpcode (c : Config) (d w : Bool) : opcW (rmOpcode c d w) = w := by
  unfold rmOpcode
  generalize c.opcRr6 = x
  revert x d w
  decide

/-- The opcode byte of format `RM` passes the classifier's first test. -/
theorem rmOpcode_bits (c : Config) (d w : Bool) : (rmOpcode c d w).extractLsb' 2 6 = c.opcRr6 := by
  unfold rmOpcode
  generalize c.opcRr6 = x
  revert x d w
  decide

@[simp] theorem classify_rmOpcode (c : Config) (d w : Bool) : classify c (rmOpcode c d w) = .rm :=
  if_pos (rmOpcode_bits c d w)

/-- A byte that format `RM` selects is the opcode byte of its own fields. -/
theorem rmOpcode_of_classify {c : Config} {b : Byte} (h : classify c b = .rm) :
    rmOpcode c (opcD b) (opcW b) = b := by
  have hb : b.extractLsb' 2 6 = c.opcRr6 := by
    unfold classify at h
    split at h
    · assumption
    · split at h <;> cases h
  unfold rmOpcode
  rw [← hb]
  clear h hb
  revert b
  decide

@[simp] theorem modField_modeByte (m : Mod2) (reg rm : Code3) : modField (modeByte m reg rm) = m := by
  revert m reg rm
  decide

@[simp] theorem regField_modeByte (m : Mod2) (reg rm : Code3) : regField (modeByte m reg rm) = reg := by
  revert m reg rm
  decide

@[simp] theorem rmField_modeByte (m : Mod2) (reg rm : Code3) : rmField (modeByte m reg rm) = rm := by
  revert m reg rm
  decide

theorem modeByte_of_fields (b : Byte) : modeByte (modField b) (regField b) (rmField b) = b := by
  revert b
  decide

/-! ## Format `IMM` -/

@[simp] theorem immW_immOpcode (c : Config) (w : Bool) (reg : Code3) : immW (immOpcode c w reg) = w := by
  unfold immOpcode
  generalize c.opcImm4 = x
  revert x w reg
  decide

@[simp] theorem immReg_immOpcode (c : Config) (w : Bool) (reg : Code3) : immReg (immOpcode c w reg) = reg := by
  unfold immOpcode
  generalize c.opcImm4 = x
  revert x w reg
  decide

/-- The opcode byte of format `IMM` passes the classifier's second test. -/
theorem immOpcode_bits (c : Config) (w : Bool) (reg : Code3) : (immOpcode c w reg).extractLsb' 4 4 = c.opcImm4 := by
  unfold immOpcode
  generalize c.opcImm4 = x
  revert x w reg
  decide

/-- Bits [7:4] of a byte are bits [5:2] of its bits [7:2]. -/
theorem extract_top4 (b : Byte) : (b.extractLsb' 2 6).extractLsb' 2 4 = b.extractLsb' 4 4 := by
  revert b
  decide

/-- With disjoint sets no byte passes both tests (00_scope.md R6; 41_opcode_classifier.md R131). -/
theorem Config.Disjoint.not_rm {c : Config} (h : c.Disjoint) {b : Byte} (hb : b.extractLsb' 4 4 = c.opcImm4) :
    b.extractLsb' 2 6 ≠ c.opcRr6 := fun hr => h (by rw [← hr, extract_top4, hb])

theorem classify_immOpcode {c : Config} {w : Bool} {reg : Code3}
    (h : (immOpcode c w reg).extractLsb' 2 6 ≠ c.opcRr6) : classify c (immOpcode c w reg) = .imm := by
  unfold classify
  rw [if_neg h, if_pos (immOpcode_bits c w reg)]

theorem classify_immOpcode_of_disjoint {c : Config} (h : c.Disjoint) (w : Bool) (reg : Code3) :
    classify c (immOpcode c w reg) = .imm := classify_immOpcode (h.not_rm (immOpcode_bits c w reg))

theorem classify_eq_imm {c : Config} {b : Byte} :
    classify c b = .imm ↔ b.extractLsb' 2 6 ≠ c.opcRr6 ∧ b.extractLsb' 4 4 = c.opcImm4 := by
  unfold classify
  split <;> rename_i h
  · simp [h]
  · split <;> simp_all

theorem classify_eq_rm {c : Config} {b : Byte} : classify c b = .rm ↔ b.extractLsb' 2 6 = c.opcRr6 := by
  unfold classify
  split <;> rename_i h
  · simp [h]
  · split <;> simp_all

theorem classify_eq_unsupported {c : Config} {b : Byte} :
    classify c b = .unsupported ↔ b.extractLsb' 2 6 ≠ c.opcRr6 ∧ b.extractLsb' 4 4 ≠ c.opcImm4 := by
  unfold classify
  split <;> rename_i h
  · simp [h]
  · split <;> simp_all

/-- A byte that format `IMM` selects is the opcode byte of its own fields. -/
theorem immOpcode_of_classify {c : Config} {b : Byte} (h : classify c b = .imm) :
    immOpcode c (immW b) (immReg b) = b := by
  unfold immOpcode
  rw [← (classify_eq_imm.1 h).2]
  clear h
  revert b
  decide

/-! ## Values -/

/-- The value of two octets: `256*hi + lo` (30_encoding.md R90). -/
theorem toNat_hiLo (h l : Byte) : (hiLo h l).toNat = 256 * h.toNat + l.toNat := by
  have e : (hiLo h l).toNat = h.toNat <<< 8 ||| l.toNat := BitVec.toNat_append h l
  rw [e, ← Nat.shiftLeft_add_eq_or_of_lt l.isLt, Nat.shiftLeft_eq, Nat.mul_comm]

@[simp] theorem toNat_zext16 (b : Byte) : (zext16 b).toNat = b.toNat := by
  unfold zext16
  rw [BitVec.toNat_setWidth, Nat.mod_eq_of_lt (Nat.lt_trans b.isLt (by decide))]

theorem toNat_lowOctet (v : Word16) : (lowOctet v).toNat = v.toNat % 256 := by
  simp [lowOctet, BitVec.extractLsb'_toNat]

theorem toNat_highOctet (v : Word16) : (highOctet v).toNat = v.toNat / 256 := by
  have := v.isLt
  simp only [highOctet, BitVec.extractLsb'_toNat, Nat.shiftRight_eq_div_pow]
  omega

@[simp] theorem hiLo_high_low (v : Word16) : hiLo (highOctet v) (lowOctet v) = v := by
  apply BitVec.eq_of_toNat_eq
  rw [toNat_hiLo, toNat_lowOctet, toNat_highOctet]
  omega

@[simp] theorem lowOctet_hiLo (h l : Byte) : lowOctet (hiLo h l) = l := by
  apply BitVec.eq_of_toNat_eq
  have := l.isLt
  rw [toNat_lowOctet, toNat_hiLo]
  omega

@[simp] theorem highOctet_hiLo (h l : Byte) : highOctet (hiLo h l) = h := by
  apply BitVec.eq_of_toNat_eq
  have := l.isLt
  rw [toNat_highOctet, toNat_hiLo]
  omega

end Sys2Proof
end

