-- ==== Sys2Proof/Laws/Memory.lean ====
section
/-! SUPPORT. The byte source's memory: reading after listing, the canonical form, and the window of octets ahead. -/

namespace Sys2Proof.Machine

/-! ## Reading after listing -/

theorem Memory.read_eq_none {m : Memory} {n : Nat} (h : ∀ c ∈ m, n < c.1) : m.read n = none := by
  induction m with
  | nil => rfl
  | cons c m ih =>
    obtain ⟨k, x⟩ := c
    have hk : n < k := h (k, x) List.mem_cons_self
    simp only [Memory.read, if_neg (Nat.ne_of_gt hk)]
    exact ih fun c hc => h c (List.mem_cons_of_mem _ hc)

theorem Memory.read_insert_same (m : Memory) (n : Nat) (b : Byte) : (m.insert n b).read n = some b := by
  induction m with
  | nil => simp [Memory.insert, Memory.read]
  | cons c m ih =>
    obtain ⟨k, x⟩ := c
    simp only [Memory.insert]
    split
    · simp [Memory.read]
    · split
      · simp [Memory.read]
      · rename_i h
        simpa [Memory.read, Ne.symm h] using ih

theorem Memory.read_insert_other (m : Memory) {n k : Nat} (b : Byte) (hk : k ≠ n) :
    (m.insert n b).read k = m.read k := by
  induction m with
  | nil => simp [Memory.insert, Memory.read, Ne.symm hk]
  | cons c m ih =>
    obtain ⟨j, x⟩ := c
    simp only [Memory.insert]
    split
    · simp [Memory.read, Ne.symm hk]
    · split
      · rename_i h
        subst h
        simp [Memory.read, Ne.symm hk]
      · simp [Memory.read, ih]

/-! ## The canonical form -/

theorem Memory.mem_insert {m : Memory} {n : Nat} {b : Byte} {c : Host.Cell} (h : c ∈ m.insert n b) :
    c.1 = n ∨ c ∈ m := by
  induction m with
  | nil =>
    simp only [Memory.insert, List.mem_singleton] at h
    exact .inl (by rw [h])
  | cons d m ih =>
    obtain ⟨k, x⟩ := d
    simp only [Memory.insert] at h
    split at h
    · rcases List.mem_cons.1 h with rfl | h
      · exact .inl rfl
      · exact .inr h
    · split at h
      · rcases List.mem_cons.1 h with rfl | h
        · exact .inl rfl
        · exact .inr (List.mem_cons_of_mem _ h)
      · rcases List.mem_cons.1 h with rfl | h
        · exact .inr List.mem_cons_self
        · exact (ih h).imp id (List.mem_cons_of_mem _)

theorem Memory.wf_insert {m : Memory} (h : m.wf) (n : Nat) (b : Byte) : (m.insert n b).wf := by
  induction m with
  | nil => simp [Memory.insert]
  | cons c m ih =>
    obtain ⟨k, x⟩ := c
    obtain ⟨hk, hm⟩ := List.pairwise_cons.1 h
    simp only [Memory.insert]
    split
    · rename_i hn
      refine List.pairwise_cons.2 ⟨fun c hc => ?_, h⟩
      rcases List.mem_cons.1 hc with rfl | hc
      · exact hn
      · exact Nat.lt_trans hn (hk c hc)
    · split
      · rename_i hn
        subst hn
        exact List.pairwise_cons.2 ⟨hk, hm⟩
      · rename_i h1 h2
        refine List.pairwise_cons.2 ⟨fun c hc => ?_, ih hm⟩
        rcases Memory.mem_insert hc with hc | hc
        · show k < c.1
          omega
        · exact hk c hc

theorem Memory.wf_insertAll {m : Memory} (h : m.wf) (n : Nat) (bs : List Byte) : (m.insertAll n bs).wf := by
  induction bs generalizing m n with
  | nil => exact h
  | cons b bs ih => exact ih (Memory.wf_insert h n b) (n + 1)

theorem Memory.mem_insertAll {m : Memory} {n : Nat} {bs : List Byte} {c : Host.Cell}
    (h : c ∈ m.insertAll n bs) : (n ≤ c.1 ∧ c.1 < n + bs.length) ∨ c ∈ m := by
  induction bs generalizing m n with
  | nil => exact .inr h
  | cons b bs ih =>
    rcases ih h with ⟨h1, h2⟩ | h
    · exact .inl ⟨by omega, by simpa [Nat.add_assoc, Nat.add_comm 1] using h2⟩
    · rcases Memory.mem_insert h with h | h
      · exact .inl ⟨by omega, by simp; omega⟩
      · exact .inr h

/-- The canonical form of a byte source, as the facts it states. -/
theorem ByteSource.wf_iff (src : ByteSource) :
    src.wf = true ↔ src.octets.wf ∧ ∀ l, src.length = some l → ∀ c ∈ src.octets, c.1 < l := by
  obtain ⟨m, len, e⟩ := src
  cases len <;> simp [ByteSource.wf, List.all_eq_true]

/-- Every operation on a byte source keeps its canonical form: the environment's load. -/
theorem ByteSource.wf_load {src : ByteSource} (h : src.wf = true) (n : Nat) (bs : List Byte) :
    (src.load n bs).wf = true := by
  obtain ⟨hm, hl⟩ := (ByteSource.wf_iff src).1 h
  refine (ByteSource.wf_iff _).2 ⟨Memory.wf_insertAll hm n bs, fun l h2 c hc => ?_⟩
  obtain ⟨l', h3, rfl⟩ := Option.map_eq_some_iff.1 h2
  rcases Memory.mem_insertAll hc with ⟨_, h4⟩ | hc
  · omega
  · have := hl l' h3 c hc
    omega

/-- Every operation on a byte source keeps its canonical form: answering `EOS`. -/
theorem ByteSource.wf_ended (src : ByteSource) (e : Bool) : ({ src with ended := e } : ByteSource).wf = src.wf := rfl

theorem ByteSource.wf_empty : ByteSource.empty.wf = true := by decide

theorem State.wf_reset_source : State.reset.source.wf = true := ByteSource.wf_empty

theorem ByteSource.wf_ofList (bs : List Byte) : (ByteSource.ofList bs).wf = true := by
  have h := ByteSource.wf_load ByteSource.wf_empty 0 bs
  simpa [ByteSource.load, ByteSource.empty, ByteSource.ofList] using h

/-- `State.withFetchWord` keeps the canonical form. -/
theorem State.withFetchWord_wf {s : State} (h : s.source.wf = true) (nbits w : Nat) :
    (s.withFetchWord nbits w).source.wf = true := ByteSource.wf_load h _ _

/-! ## Octets and windows -/

@[simp] theorem ByteSource.octet_ended (src : ByteSource) (e : Bool) (n : Nat) :
    ({ src with ended := e } : ByteSource).octet n = src.octet n := rfl

theorem ByteSource.octet_eq_none {src : ByteSource} {n : Nat} :
    src.octet n = none ↔ ∃ l, src.length = some l ∧ l ≤ n := by
  unfold ByteSource.octet ByteSource.has
  cases src.length <;> simp

theorem ByteSource.octet_isSome {src : ByteSource} {n l : Nat} (h : src.length = some l) :
    (∃ b, src.octet n = some b) ↔ n < l := by
  unfold ByteSource.octet ByteSource.has
  simp [h]

theorem ByteSource.window_zero (src : ByteSource) (n : Nat) : src.window n 0 = [] := rfl

theorem ByteSource.window_some {src : ByteSource} {n : Nat} {b : Byte} (h : src.octet n = some b) (k : Nat) :
    src.window n (k + 1) = b :: src.window (n + 1) k := by
  rw [ByteSource.window, h]

theorem ByteSource.window_none {src : ByteSource} {n : Nat} (h : src.octet n = none) (k : Nat) :
    src.window n k = [] := by
  cases k with
  | zero => rfl
  | succ k => rw [ByteSource.window, h]

/-- What a window tells of the octets: its entries are the octets from its start on. -/
theorem ByteSource.window_eq_cons {src : ByteSource} {n k : Nat} {b : Byte} {bs : List Byte}
    (h : src.window n k = b :: bs) : src.octet n = some b ∧ ∃ j, k = j + 1 ∧ src.window (n + 1) j = bs := by
  cases k with
  | zero => cases h
  | succ k =>
    cases ho : src.octet n with
    | none => rw [ByteSource.window_none ho] at h; cases h
    | some x =>
      rw [ByteSource.window_some ho] at h
      obtain ⟨rfl, rfl⟩ := List.cons.inj h
      exact ⟨rfl, k, rfl, rfl⟩

/-- A window that is empty although octets were asked for: the stream ends at its start. -/
theorem ByteSource.window_eq_nil {src : ByteSource} {n k : Nat} (h : src.window n (k + 1) = []) :
    src.octet n = none := by
  cases ho : src.octet n with
  | none => rfl
  | some x => rw [ByteSource.window_some ho] at h; cases h

end Sys2Proof.Machine
end

