-- ==== Sys2Proof/Laws/State.lean ====
section
/-! SUPPORT. What each named update of the state does to each field, true by unfolding, so that no proof unfolds a
record update. -/

namespace Sys2Proof.Machine

/-! `State.setUnsupSeen` -/

@[simp] theorem State.setUnsupSeen_cfg (s : State) : s.setUnsupSeen.cfg = s.cfg := rfl
@[simp] theorem State.setUnsupSeen_st (s : State) : s.setUnsupSeen.st = s.st := rfl
@[simp] theorem State.setUnsupSeen_opc (s : State) : s.setUnsupSeen.opc = s.opc := rfl
@[simp] theorem State.setUnsupSeen_modb (s : State) : s.setUnsupSeen.modb = s.modb := rfl
@[simp] theorem State.setUnsupSeen_lo (s : State) : s.setUnsupSeen.lo = s.lo := rfl
@[simp] theorem State.setUnsupSeen_unsupSeen (s : State) : s.setUnsupSeen.unsupSeen = true := rfl
@[simp] theorem State.setUnsupSeen_eosFault (s : State) : s.setUnsupSeen.eosFault = s.eosFault := rfl
@[simp] theorem State.setUnsupSeen_pos (s : State) : s.setUnsupSeen.pos = s.pos := rfl
@[simp] theorem State.setUnsupSeen_trace (s : State) : s.setUnsupSeen.trace = s.trace := rfl
@[simp] theorem State.setUnsupSeen_source (s : State) : s.setUnsupSeen.source = s.source := rfl

/-! `State.setEosFault` -/

@[simp] theorem State.setEosFault_cfg (s : State) : s.setEosFault.cfg = s.cfg := rfl
@[simp] theorem State.setEosFault_st (s : State) : s.setEosFault.st = s.st := rfl
@[simp] theorem State.setEosFault_opc (s : State) : s.setEosFault.opc = s.opc := rfl
@[simp] theorem State.setEosFault_modb (s : State) : s.setEosFault.modb = s.modb := rfl
@[simp] theorem State.setEosFault_lo (s : State) : s.setEosFault.lo = s.lo := rfl
@[simp] theorem State.setEosFault_unsupSeen (s : State) : s.setEosFault.unsupSeen = s.unsupSeen := rfl
@[simp] theorem State.setEosFault_eosFault (s : State) : s.setEosFault.eosFault = true := rfl
@[simp] theorem State.setEosFault_pos (s : State) : s.setEosFault.pos = s.pos := rfl
@[simp] theorem State.setEosFault_trace (s : State) : s.setEosFault.trace = s.trace := rfl
@[simp] theorem State.setEosFault_source (s : State) : s.setEosFault.source = s.source := rfl

/-! `State.advance` -/

@[simp] theorem State.advance_cfg (s : State) (n : Nat) : (s.advance n).cfg = s.cfg := rfl
@[simp] theorem State.advance_st (s : State) (n : Nat) : (s.advance n).st = s.st := rfl
@[simp] theorem State.advance_opc (s : State) (n : Nat) : (s.advance n).opc = s.opc := rfl
@[simp] theorem State.advance_modb (s : State) (n : Nat) : (s.advance n).modb = s.modb := rfl
@[simp] theorem State.advance_lo (s : State) (n : Nat) : (s.advance n).lo = s.lo := rfl
@[simp] theorem State.advance_unsupSeen (s : State) (n : Nat) : (s.advance n).unsupSeen = s.unsupSeen := rfl
@[simp] theorem State.advance_eosFault (s : State) (n : Nat) : (s.advance n).eosFault = s.eosFault := rfl
@[simp] theorem State.advance_pos (s : State) (n : Nat) : (s.advance n).pos = s.pos + n := rfl
@[simp] theorem State.advance_trace (s : State) (n : Nat) : (s.advance n).trace = s.trace := rfl
@[simp] theorem State.advance_source (s : State) (n : Nat) : (s.advance n).source = s.source := rfl

/-! `State.markEnded` -/

@[simp] theorem State.markEnded_cfg (s : State) : s.markEnded.cfg = s.cfg := rfl
@[simp] theorem State.markEnded_st (s : State) : s.markEnded.st = s.st := rfl
@[simp] theorem State.markEnded_opc (s : State) : s.markEnded.opc = s.opc := rfl
@[simp] theorem State.markEnded_modb (s : State) : s.markEnded.modb = s.modb := rfl
@[simp] theorem State.markEnded_lo (s : State) : s.markEnded.lo = s.lo := rfl
@[simp] theorem State.markEnded_unsupSeen (s : State) : s.markEnded.unsupSeen = s.unsupSeen := rfl
@[simp] theorem State.markEnded_eosFault (s : State) : s.markEnded.eosFault = s.eosFault := rfl
@[simp] theorem State.markEnded_pos (s : State) : s.markEnded.pos = s.pos := rfl
@[simp] theorem State.markEnded_trace (s : State) : s.markEnded.trace = s.trace := rfl
@[simp] theorem State.markEnded_source (s : State) : s.markEnded.source = { s.source with ended := true } := rfl

/-! `State.latchOpc` -/

@[simp] theorem State.latchOpc_cfg (s : State) (b : Byte) : (s.latchOpc b).cfg = s.cfg := rfl
@[simp] theorem State.latchOpc_st (s : State) (b : Byte) : (s.latchOpc b).st = s.st := rfl
@[simp] theorem State.latchOpc_opc (s : State) (b : Byte) : (s.latchOpc b).opc = b := rfl
@[simp] theorem State.latchOpc_modb (s : State) (b : Byte) : (s.latchOpc b).modb = s.modb := rfl
@[simp] theorem State.latchOpc_lo (s : State) (b : Byte) : (s.latchOpc b).lo = s.lo := rfl
@[simp] theorem State.latchOpc_unsupSeen (s : State) (b : Byte) : (s.latchOpc b).unsupSeen = s.unsupSeen := rfl
@[simp] theorem State.latchOpc_eosFault (s : State) (b : Byte) : (s.latchOpc b).eosFault = s.eosFault := rfl
@[simp] theorem State.latchOpc_pos (s : State) (b : Byte) : (s.latchOpc b).pos = s.pos := rfl
@[simp] theorem State.latchOpc_trace (s : State) (b : Byte) : (s.latchOpc b).trace = s.trace := rfl
@[simp] theorem State.latchOpc_source (s : State) (b : Byte) : (s.latchOpc b).source = s.source := rfl

/-! `State.latchModb` -/

@[simp] theorem State.latchModb_cfg (s : State) (b : Byte) : (s.latchModb b).cfg = s.cfg := rfl
@[simp] theorem State.latchModb_st (s : State) (b : Byte) : (s.latchModb b).st = s.st := rfl
@[simp] theorem State.latchModb_opc (s : State) (b : Byte) : (s.latchModb b).opc = s.opc := rfl
@[simp] theorem State.latchModb_modb (s : State) (b : Byte) : (s.latchModb b).modb = b := rfl
@[simp] theorem State.latchModb_lo (s : State) (b : Byte) : (s.latchModb b).lo = s.lo := rfl
@[simp] theorem State.latchModb_unsupSeen (s : State) (b : Byte) : (s.latchModb b).unsupSeen = s.unsupSeen := rfl
@[simp] theorem State.latchModb_eosFault (s : State) (b : Byte) : (s.latchModb b).eosFault = s.eosFault := rfl
@[simp] theorem State.latchModb_pos (s : State) (b : Byte) : (s.latchModb b).pos = s.pos := rfl
@[simp] theorem State.latchModb_trace (s : State) (b : Byte) : (s.latchModb b).trace = s.trace := rfl
@[simp] theorem State.latchModb_source (s : State) (b : Byte) : (s.latchModb b).source = s.source := rfl

/-! `State.latchLo` -/

@[simp] theorem State.latchLo_cfg (s : State) (b : Byte) : (s.latchLo b).cfg = s.cfg := rfl
@[simp] theorem State.latchLo_st (s : State) (b : Byte) : (s.latchLo b).st = s.st := rfl
@[simp] theorem State.latchLo_opc (s : State) (b : Byte) : (s.latchLo b).opc = s.opc := rfl
@[simp] theorem State.latchLo_modb (s : State) (b : Byte) : (s.latchLo b).modb = s.modb := rfl
@[simp] theorem State.latchLo_lo (s : State) (b : Byte) : (s.latchLo b).lo = b := rfl
@[simp] theorem State.latchLo_unsupSeen (s : State) (b : Byte) : (s.latchLo b).unsupSeen = s.unsupSeen := rfl
@[simp] theorem State.latchLo_eosFault (s : State) (b : Byte) : (s.latchLo b).eosFault = s.eosFault := rfl
@[simp] theorem State.latchLo_pos (s : State) (b : Byte) : (s.latchLo b).pos = s.pos := rfl
@[simp] theorem State.latchLo_trace (s : State) (b : Byte) : (s.latchLo b).trace = s.trace := rfl
@[simp] theorem State.latchLo_source (s : State) (b : Byte) : (s.latchLo b).source = s.source := rfl

/-! `State.goto` -/

@[simp] theorem State.goto_cfg (s : State) (q : SeqState) : (s.goto q).cfg = s.cfg := rfl
@[simp] theorem State.goto_st (s : State) (q : SeqState) : (s.goto q).st = q := rfl
@[simp] theorem State.goto_opc (s : State) (q : SeqState) : (s.goto q).opc = s.opc := rfl
@[simp] theorem State.goto_modb (s : State) (q : SeqState) : (s.goto q).modb = s.modb := rfl
@[simp] theorem State.goto_lo (s : State) (q : SeqState) : (s.goto q).lo = s.lo := rfl
@[simp] theorem State.goto_unsupSeen (s : State) (q : SeqState) : (s.goto q).unsupSeen = s.unsupSeen := rfl
@[simp] theorem State.goto_eosFault (s : State) (q : SeqState) : (s.goto q).eosFault = s.eosFault := rfl
@[simp] theorem State.goto_pos (s : State) (q : SeqState) : (s.goto q).pos = s.pos := rfl
@[simp] theorem State.goto_trace (s : State) (q : SeqState) : (s.goto q).trace = s.trace := rfl
@[simp] theorem State.goto_source (s : State) (q : SeqState) : (s.goto q).source = s.source := rfl

/-! `State.emit` -/

@[simp] theorem State.emit_cfg (s : State) (e : Event) : (s.emit e).cfg = s.cfg := rfl
@[simp] theorem State.emit_st (s : State) (e : Event) : (s.emit e).st = s.st := rfl
@[simp] theorem State.emit_opc (s : State) (e : Event) : (s.emit e).opc = s.opc := rfl
@[simp] theorem State.emit_modb (s : State) (e : Event) : (s.emit e).modb = s.modb := rfl
@[simp] theorem State.emit_lo (s : State) (e : Event) : (s.emit e).lo = s.lo := rfl
@[simp] theorem State.emit_unsupSeen (s : State) (e : Event) : (s.emit e).unsupSeen = s.unsupSeen := rfl
@[simp] theorem State.emit_eosFault (s : State) (e : Event) : (s.emit e).eosFault = s.eosFault := rfl
@[simp] theorem State.emit_pos (s : State) (e : Event) : (s.emit e).pos = s.pos := rfl
@[simp] theorem State.emit_trace (s : State) (e : Event) : (s.emit e).trace = s.trace ++ [e] := rfl
@[simp] theorem State.emit_source (s : State) (e : Event) : (s.emit e).source = s.source := rfl

/-! `State.complete` -/

@[simp] theorem State.complete_cfg (s : State) (i : Instruction) : (s.complete i).cfg = s.cfg := rfl
@[simp] theorem State.complete_st (s : State) (i : Instruction) : (s.complete i).st = .fetch := rfl
@[simp] theorem State.complete_opc (s : State) (i : Instruction) : (s.complete i).opc = s.opc := rfl
@[simp] theorem State.complete_modb (s : State) (i : Instruction) : (s.complete i).modb = s.modb := rfl
@[simp] theorem State.complete_lo (s : State) (i : Instruction) : (s.complete i).lo = s.lo := rfl
@[simp] theorem State.complete_unsupSeen (s : State) (i : Instruction) : (s.complete i).unsupSeen = s.unsupSeen := rfl
@[simp] theorem State.complete_eosFault (s : State) (i : Instruction) : (s.complete i).eosFault = s.eosFault := rfl
@[simp] theorem State.complete_pos (s : State) (i : Instruction) : (s.complete i).pos = s.pos := rfl
@[simp] theorem State.complete_trace (s : State) (i : Instruction) : (s.complete i).trace = s.trace ++ [.instr i] := rfl
@[simp] theorem State.complete_source (s : State) (i : Instruction) : (s.complete i).source = s.source := rfl

/-! `raiseUnsupported` -/

@[simp] theorem raiseUnsupported_cfg (b : Byte) (s : State) : (raiseUnsupported b s).cfg = s.cfg := rfl
@[simp] theorem raiseUnsupported_st (b : Byte) (s : State) : (raiseUnsupported b s).st = .fetch := rfl
@[simp] theorem raiseUnsupported_opc (b : Byte) (s : State) : (raiseUnsupported b s).opc = s.opc := rfl
@[simp] theorem raiseUnsupported_modb (b : Byte) (s : State) : (raiseUnsupported b s).modb = s.modb := rfl
@[simp] theorem raiseUnsupported_lo (b : Byte) (s : State) : (raiseUnsupported b s).lo = s.lo := rfl
@[simp] theorem raiseUnsupported_unsupSeen (b : Byte) (s : State) : (raiseUnsupported b s).unsupSeen = true := rfl
@[simp] theorem raiseUnsupported_eosFault (b : Byte) (s : State) : (raiseUnsupported b s).eosFault = s.eosFault := rfl
@[simp] theorem raiseUnsupported_pos (b : Byte) (s : State) : (raiseUnsupported b s).pos = s.pos := rfl
@[simp] theorem raiseUnsupported_trace (b : Byte) (s : State) : (raiseUnsupported b s).trace = s.trace ++ [.errUnsupported b] := rfl
@[simp] theorem raiseUnsupported_source (b : Byte) (s : State) : (raiseUnsupported b s).source = s.source := rfl

/-! `raiseEos` -/

@[simp] theorem raiseEos_cfg (s : State) : (raiseEos s).cfg = s.cfg := rfl
@[simp] theorem raiseEos_st (s : State) : (raiseEos s).st = eosTarget s.cfg.eosPolicy := rfl
@[simp] theorem raiseEos_opc (s : State) : (raiseEos s).opc = s.opc := rfl
@[simp] theorem raiseEos_modb (s : State) : (raiseEos s).modb = s.modb := rfl
@[simp] theorem raiseEos_lo (s : State) : (raiseEos s).lo = s.lo := rfl
@[simp] theorem raiseEos_unsupSeen (s : State) : (raiseEos s).unsupSeen = s.unsupSeen := rfl
@[simp] theorem raiseEos_eosFault (s : State) : (raiseEos s).eosFault = true := rfl
@[simp] theorem raiseEos_pos (s : State) : (raiseEos s).pos = s.pos := rfl
@[simp] theorem raiseEos_trace (s : State) : (raiseEos s).trace = s.trace ++ [.errEos] := rfl
@[simp] theorem raiseEos_source (s : State) : (raiseEos s).source = s.source := rfl

/-! `topLevelEnd` -/

@[simp] theorem topLevelEnd_cfg (s : State) : (topLevelEnd s).cfg = s.cfg := rfl
@[simp] theorem topLevelEnd_st (s : State) : (topLevelEnd s).st = .haltEnd := rfl
@[simp] theorem topLevelEnd_opc (s : State) : (topLevelEnd s).opc = s.opc := rfl
@[simp] theorem topLevelEnd_modb (s : State) : (topLevelEnd s).modb = s.modb := rfl
@[simp] theorem topLevelEnd_lo (s : State) : (topLevelEnd s).lo = s.lo := rfl
@[simp] theorem topLevelEnd_unsupSeen (s : State) : (topLevelEnd s).unsupSeen = s.unsupSeen := rfl
@[simp] theorem topLevelEnd_eosFault (s : State) : (topLevelEnd s).eosFault = s.eosFault := rfl
@[simp] theorem topLevelEnd_pos (s : State) : (topLevelEnd s).pos = s.pos := rfl
@[simp] theorem topLevelEnd_trace (s : State) : (topLevelEnd s).trace = s.trace ++ [.endOfRun] := rfl
@[simp] theorem topLevelEnd_source (s : State) : (topLevelEnd s).source = s.source := rfl

/-! `completeRm` -/

@[simp] theorem completeRm_cfg (size : Nat) (o m : Byte) (i : Instruction) (s : State) : (completeRm size o m i s).cfg = s.cfg := rfl
@[simp] theorem completeRm_st (size : Nat) (o m : Byte) (i : Instruction) (s : State) : (completeRm size o m i s).st = .fetch := rfl
@[simp] theorem completeRm_opc (size : Nat) (o m : Byte) (i : Instruction) (s : State) : (completeRm size o m i s).opc = o := rfl
@[simp] theorem completeRm_modb (size : Nat) (o m : Byte) (i : Instruction) (s : State) : (completeRm size o m i s).modb = m := rfl
@[simp] theorem completeRm_lo (size : Nat) (o m : Byte) (i : Instruction) (s : State) : (completeRm size o m i s).lo = s.lo := rfl
@[simp] theorem completeRm_unsupSeen (size : Nat) (o m : Byte) (i : Instruction) (s : State) : (completeRm size o m i s).unsupSeen = s.unsupSeen := rfl
@[simp] theorem completeRm_eosFault (size : Nat) (o m : Byte) (i : Instruction) (s : State) : (completeRm size o m i s).eosFault = s.eosFault := rfl
@[simp] theorem completeRm_pos (size : Nat) (o m : Byte) (i : Instruction) (s : State) : (completeRm size o m i s).pos = s.pos + size := rfl
@[simp] theorem completeRm_trace (size : Nat) (o m : Byte) (i : Instruction) (s : State) : (completeRm size o m i s).trace = s.trace ++ [.instr i] := rfl
@[simp] theorem completeRm_source (size : Nat) (o m : Byte) (i : Instruction) (s : State) : (completeRm size o m i s).source = s.source := rfl

/-! `completeRmLo` -/

@[simp] theorem completeRmLo_cfg (o m l : Byte) (i : Instruction) (s : State) : (completeRmLo o m l i s).cfg = s.cfg := rfl
@[simp] theorem completeRmLo_st (o m l : Byte) (i : Instruction) (s : State) : (completeRmLo o m l i s).st = .fetch := rfl
@[simp] theorem completeRmLo_opc (o m l : Byte) (i : Instruction) (s : State) : (completeRmLo o m l i s).opc = o := rfl
@[simp] theorem completeRmLo_modb (o m l : Byte) (i : Instruction) (s : State) : (completeRmLo o m l i s).modb = m := rfl
@[simp] theorem completeRmLo_lo (o m l : Byte) (i : Instruction) (s : State) : (completeRmLo o m l i s).lo = l := rfl
@[simp] theorem completeRmLo_unsupSeen (o m l : Byte) (i : Instruction) (s : State) : (completeRmLo o m l i s).unsupSeen = s.unsupSeen := rfl
@[simp] theorem completeRmLo_eosFault (o m l : Byte) (i : Instruction) (s : State) : (completeRmLo o m l i s).eosFault = s.eosFault := rfl
@[simp] theorem completeRmLo_pos (o m l : Byte) (i : Instruction) (s : State) : (completeRmLo o m l i s).pos = s.pos + 4 := rfl
@[simp] theorem completeRmLo_trace (o m l : Byte) (i : Instruction) (s : State) : (completeRmLo o m l i s).trace = s.trace ++ [.instr i] := rfl
@[simp] theorem completeRmLo_source (o m l : Byte) (i : Instruction) (s : State) : (completeRmLo o m l i s).source = s.source := rfl

end Sys2Proof.Machine
end

