-- ==== Sys2Proof/Laws/Ops.lean ====
section
/-! SUPPORT. What each shared operation can do, said once: `NextOctet()`, the arms of R140, the small step, the
finishing of an attempt, `exec`, and the big step. -/

namespace Sys2Proof.Machine

/-! ## `NextOctet()` -/

theorem nextOctet_of_some {s : State} {b : Byte} (h : s.source.octet s.pos = some b) :
    nextOctet s = (.byte b, s.advance 1) := by
  unfold nextOctet
  rw [h]

theorem nextOctet_of_none {s : State} (h : s.source.octet s.pos = none) : nextOctet s = (.eos, s.markEnded) := by
  unfold nextOctet
  rw [h]

/-! ## The arms of R140: what none of them changes -/

@[simp] theorem takeByte_cfg (b : Byte) (s : State) : (takeByte b s).cfg = s.cfg := by
  unfold takeByte
  repeat' split
  all_goals rfl

@[simp] theorem takeByte_source (b : Byte) (s : State) : (takeByte b s).source = s.source := by
  unfold takeByte
  repeat' split
  all_goals rfl

@[simp] theorem takeByte_pos (b : Byte) (s : State) : (takeByte b s).pos = s.pos := by
  unfold takeByte
  repeat' split
  all_goals rfl

@[simp] theorem takeByte_eosFault (b : Byte) (s : State) : (takeByte b s).eosFault = s.eosFault := by
  unfold takeByte
  repeat' split
  all_goals rfl

@[simp] theorem takeEos_cfg (s : State) : (takeEos s).cfg = s.cfg := by
  unfold takeEos
  split <;> rfl

@[simp] theorem takeEos_source (s : State) : (takeEos s).source = s.source := by
  unfold takeEos
  split <;> rfl

@[simp] theorem takeEos_pos (s : State) : (takeEos s).pos = s.pos := by
  unfold takeEos
  split <;> rfl

@[simp] theorem takeEos_unsupSeen (s : State) : (takeEos s).unsupSeen = s.unsupSeen := by
  unfold takeEos
  split <;> rfl

/-! ## The small step -/

/-- In a state with a step, the small step is one request. -/
theorem octetStep_eq_request {s : State} (h : s.st.terminal = false) : octetStep s = requestOctet s := by
  unfold octetStep
  cases hs : s.st <;> simp_all [SeqState.terminal]

/-- The small step on a `byte` answer. -/
theorem octetStep_byte {s : State} {b : Byte} (ht : s.st.terminal = false) (he : s.source.ended = false)
    (ho : s.source.octet s.pos = some b) : octetStep s = .next (takeByte b (s.advance 1)) := by
  rw [octetStep_eq_request ht, requestOctet, if_neg (by simp [he]), nextOctet_of_some ho]

/-- The small step on an `EOS` answer. -/
theorem octetStep_eos {s : State} (ht : s.st.terminal = false) (he : s.source.ended = false)
    (ho : s.source.octet s.pos = none) : octetStep s = .next (takeEos s.markEnded) := by
  rw [octetStep_eq_request ht, requestOctet, if_neg (by simp [he]), nextOctet_of_none ho]

/-- Everything a small step that answers a next state can be. -/
theorem octetStep_cases {s t : State} (h : octetStep s = .next t) :
    s.st.terminal = false ∧ s.source.ended = false ∧
      ((∃ b, s.source.octet s.pos = some b ∧ t = takeByte b (s.advance 1)) ∨
        (s.source.octet s.pos = none ∧ t = takeEos s.markEnded)) := by
  have ht : s.st.terminal = false := by
    unfold octetStep at h
    cases hs : s.st <;> simp_all [SeqState.terminal]
  have he : s.source.ended = false := by
    rw [octetStep_eq_request ht, requestOctet] at h
    split at h
    · cases h
    · simp_all
  refine ⟨ht, he, ?_⟩
  cases ho : s.source.octet s.pos with
  | some b =>
    rw [octetStep_byte ht he ho] at h
    exact .inl ⟨b, rfl, (Host.Outcome.next.inj h).symm⟩
  | none =>
    rw [octetStep_eos ht he ho] at h
    exact .inr ⟨rfl, (Host.Outcome.next.inj h).symm⟩

/-- A predicate that every small step keeps is kept by the finishing of an attempt. -/
theorem finishAttempt_keeps {P : State → Prop} (hP : ∀ s t, octetStep s = .next t → P s → P t) :
    ∀ (k : Nat) (s t : State), finishAttempt k s = .next t → P s → P t
  | 0, _, _, h, hs => Host.Outcome.next.inj h ▸ hs
  | k + 1, s, t, h, hs => by
    unfold finishAttempt at h
    split at h
    · rename_i u hu
      split at h
      · exact finishAttempt_keeps hP k u t h (hP s u hu hs)
      · exact Host.Outcome.next.inj h ▸ hP s u hu hs
    · cases h
    · cases h

theorem finishAttempt_succ (k : Nat) (s : State) : finishAttempt (k + 1) s =
    match octetStep s with
    | .next t => if t.st.inside then finishAttempt k t else .next t
    | .fault r => .fault r
    | .refused r => .refused r := rfl

/-! ## `exec` -/

/-- Every meaning answers a next state that keeps the parameters, the byte source and `eos_fault`, ends in `FETCH`,
moves the cursor by the instruction's length and emits one event. -/
theorem exec_next (i : Instr) (s : State) :
    ∃ t e, exec i s = .next t ∧ t.cfg = s.cfg ∧ t.source = s.source ∧ t.eosFault = s.eosFault ∧ t.st = .fetch ∧
      t.pos = s.pos + i.size ∧ t.trace = s.trace ++ [e] := by
  cases i <;> exact ⟨_, _, rfl, rfl, rfl, rfl, rfl, rfl, rfl⟩

/-! ## The big step -/

/-- Everything a step that answers a next state can be. -/
theorem step_cases {s t : State} (h : step s = .next t) :
    (s.st = .fetch ∧ s.source.ended = false ∧
      ((∃ i rest, decode s.cfg (fetchOctets s) = .ok i rest ∧ exec i s = .next t) ∨
        (decode s.cfg (fetchOctets s) = .endOfStream ∧ t = attemptAtEnd s) ∨
        (decode s.cfg (fetchOctets s) = .truncated ∧ t = attemptTruncated (fetchOctets s) s))) ∨
    (s.st.inside = true ∧ finishAttempt 3 s = .next t) := by
  unfold step at h
  split at h
  · cases h
  · cases h
  · rename_i hs
    split at h
    · cases h
    · rename_i he
      refine .inl ⟨hs, by simpa using he, ?_⟩
      split at h
      · rename_i i rest hd
        exact .inl ⟨i, rest, hd, h⟩
      · rename_i hd
        exact .inr (.inl ⟨hd, (Host.Outcome.next.inj h).symm⟩)
      · rename_i hd
        exact .inr (.inr ⟨hd, (Host.Outcome.next.inj h).symm⟩)
  all_goals
    rename_i hs
    exact .inr ⟨by rw [hs]; rfl, h⟩

end Sys2Proof.Machine
end

