-- ==== Sys2Proof/Laws/PerInstr.lean ====
section
/-! SUPPORT. The per-instruction families of LAWS.json, each about the instruction as syntax: the length of its
encoding (30_encoding.md R84) and the class of its opcode byte (R80, R133). -/

namespace Sys2Proof.Laws

/-- The encoding has the instruction's length, under any parameters (30_encoding.md R84). -/
def EncodeSize.Statement (i : Instr) : Prop := ∀ c : Config, (encode c i).length = i.size

theorem EncodeSize.movRmRegDirect (w : Bool) (reg rm : Code3) : EncodeSize.Statement (.movRmRegDirect w reg rm) := fun _ => rfl

theorem EncodeSize.movRegRmDirect (w : Bool) (reg rm : Code3) : EncodeSize.Statement (.movRegRmDirect w reg rm) := fun _ => rfl

theorem EncodeSize.movRmRegAddr (w : Bool) (reg : Code3) (addr : Word16) : EncodeSize.Statement (.movRmRegAddr w reg addr) := fun _ => rfl

theorem EncodeSize.movRegRmAddr (w : Bool) (reg : Code3) (addr : Word16) : EncodeSize.Statement (.movRegRmAddr w reg addr) := fun _ => rfl

theorem EncodeSize.movRmRegMem (w : Bool) (reg rm : Code3) : EncodeSize.Statement (.movRmRegMem w reg rm) := fun _ => rfl

theorem EncodeSize.movRegRmMem (w : Bool) (reg rm : Code3) : EncodeSize.Statement (.movRegRmMem w reg rm) := fun _ => rfl

theorem EncodeSize.movRmRegDisp8 (w : Bool) (reg rm : Code3) (d8 : Byte) : EncodeSize.Statement (.movRmRegDisp8 w reg rm d8) := fun _ => rfl

theorem EncodeSize.movRegRmDisp8 (w : Bool) (reg rm : Code3) (d8 : Byte) : EncodeSize.Statement (.movRegRmDisp8 w reg rm d8) := fun _ => rfl

theorem EncodeSize.movRmRegDisp16 (w : Bool) (reg rm : Code3) (d16 : Word16) : EncodeSize.Statement (.movRmRegDisp16 w reg rm d16) := fun _ => rfl

theorem EncodeSize.movRegRmDisp16 (w : Bool) (reg rm : Code3) (d16 : Word16) : EncodeSize.Statement (.movRegRmDisp16 w reg rm d16) := fun _ => rfl

theorem EncodeSize.movRegImm8 (reg : Code3) (data : Byte) : EncodeSize.Statement (.movRegImm8 reg data) := fun _ => rfl

theorem EncodeSize.movRegImm16 (reg : Code3) (data : Word16) : EncodeSize.Statement (.movRegImm16 reg data) := fun _ => rfl

theorem EncodeSize.unsupported (b : Byte) : EncodeSize.Statement (.unsupported b) := fun _ => rfl

/-- The encoding's first octet is of the instruction's class, where the instruction is well-formed (R80, R133). -/
def OpcodeClass.Statement (i : Instr) : Prop :=
  ∀ c : Config, i.WellFormed c = true → (encode c i).head?.map (classify c) = some i.opClass

theorem OpcodeClass.movRmRegDirect (w : Bool) (reg rm : Code3) : OpcodeClass.Statement (.movRmRegDirect w reg rm) := fun c _ =>
  congrArg some (classify_rmOpcode c false w)

theorem OpcodeClass.movRegRmDirect (w : Bool) (reg rm : Code3) : OpcodeClass.Statement (.movRegRmDirect w reg rm) := fun c _ =>
  congrArg some (classify_rmOpcode c true w)

theorem OpcodeClass.movRmRegAddr (w : Bool) (reg : Code3) (addr : Word16) : OpcodeClass.Statement (.movRmRegAddr w reg addr) := fun c _ =>
  congrArg some (classify_rmOpcode c false w)

theorem OpcodeClass.movRegRmAddr (w : Bool) (reg : Code3) (addr : Word16) : OpcodeClass.Statement (.movRegRmAddr w reg addr) := fun c _ =>
  congrArg some (classify_rmOpcode c true w)

theorem OpcodeClass.movRmRegMem (w : Bool) (reg rm : Code3) : OpcodeClass.Statement (.movRmRegMem w reg rm) := fun c _ =>
  congrArg some (classify_rmOpcode c false w)

theorem OpcodeClass.movRegRmMem (w : Bool) (reg rm : Code3) : OpcodeClass.Statement (.movRegRmMem w reg rm) := fun c _ =>
  congrArg some (classify_rmOpcode c true w)

theorem OpcodeClass.movRmRegDisp8 (w : Bool) (reg rm : Code3) (d8 : Byte) : OpcodeClass.Statement (.movRmRegDisp8 w reg rm d8) := fun c _ =>
  congrArg some (classify_rmOpcode c false w)

theorem OpcodeClass.movRegRmDisp8 (w : Bool) (reg rm : Code3) (d8 : Byte) : OpcodeClass.Statement (.movRegRmDisp8 w reg rm d8) := fun c _ =>
  congrArg some (classify_rmOpcode c true w)

theorem OpcodeClass.movRmRegDisp16 (w : Bool) (reg rm : Code3) (d16 : Word16) : OpcodeClass.Statement (.movRmRegDisp16 w reg rm d16) := fun c _ =>
  congrArg some (classify_rmOpcode c false w)

theorem OpcodeClass.movRegRmDisp16 (w : Bool) (reg rm : Code3) (d16 : Word16) : OpcodeClass.Statement (.movRegRmDisp16 w reg rm d16) := fun c _ =>
  congrArg some (classify_rmOpcode c true w)

theorem OpcodeClass.movRegImm8 (reg : Code3) (data : Byte) : OpcodeClass.Statement (.movRegImm8 reg data) := fun _ h =>
  congrArg some (classify_immOpcode (of_decide_eq_true h))

theorem OpcodeClass.movRegImm16 (reg : Code3) (data : Word16) : OpcodeClass.Statement (.movRegImm16 reg data) := fun _ h =>
  congrArg some (classify_immOpcode (of_decide_eq_true h))

theorem OpcodeClass.unsupported (b : Byte) : OpcodeClass.Statement (.unsupported b) := fun _ h => by
  simp only [Instr.WellFormed, Bool.and_eq_true, decide_eq_true_eq] at h
  exact congrArg some (classify_eq_unsupported.2 h)

end Sys2Proof.Laws
end

