-- ==== Sys2Proof/Tests/Slice0.lean ====
section
/-! SUPPORT. The model's own tests: the well-formedness smoke test, one encoding of every row written out bit by bit,
one or two small steps per row with results from spec/95_test_vectors.md, and for every obligation with hypotheses a
named witness that meets them. -/

namespace Sys2Proof.Tests

open Sys2Proof.Machine

/-! ## Helpers -/

/-- Right after reset, on a stream that holds exactly these octets. -/
def onStream (bs : List Byte) : State := State.start Config.default (ByteSource.ofList bs)

/-- The next state of an outcome. -/
def nextOf : Host.Outcome State Fault Refusal → Option State
  | .next t => some t
  | .fault _ => none
  | .refused _ => none

/-- What an observer sees after an outcome: the trace, `st`, `pos`, `unsup_seen`, `eos_fault`. -/
def seen (o : Host.Outcome State Fault Refusal) : Option (List Event × SeqState × Nat × Bool × Bool) :=
  (nextOf o).map (fun t => (t.trace, t.st, t.pos, t.unsupSeen, t.eosFault))

/-- Parameters whose two opcode sets overlap (93_implementation_defined.md U14): `0xB0` to `0xB3` pass
both tests, and `RM` wins. -/
def overlapping : Config := { Config.default with opcRr6 := 0b101100#6 }

/-- The alternative policy of 92_eei_decisions.md D6. -/
def resuming : Config := { Config.default with eosPolicy := .resume }

/-! ## Well-formedness refuses an ill-formed term, one for each check -/

theorem test_illformed_rm_reg_mem : Instr.WellFormed Config.default (.movRmRegMem true 0b001#3 0b110#3) = false := by decide
theorem test_illformed_reg_rm_mem : Instr.WellFormed Config.default (.movRegRmMem false 0b011#3 0b110#3) = false := by decide
theorem test_illformed_imm8 : Instr.WellFormed overlapping (.movRegImm8 0b011#3 0x2A#8) = false := by decide
theorem test_illformed_imm16 :
    Instr.WellFormed { Config.default with opcRr6 := 0b101110#6 } (.movRegImm16 0b000#3 0x2A#16) = false := by decide
theorem test_illformed_unsupported_rm : Instr.WellFormed Config.default (.unsupported 0x88#8) = false := by decide
theorem test_illformed_unsupported_imm : Instr.WellFormed Config.default (.unsupported 0xB0#8) = false := by decide
theorem test_wellformed_nearest :
    Instr.WellFormed Config.default (.movRmRegMem true 0b001#3 0b111#3) = true ∧
      Instr.WellFormed overlapping (.movRegImm8 0b100#3 0x2A#8) = true ∧
      Instr.WellFormed Config.default (.unsupported 0x8C#8) = true := by decide

/-! ## Every row's encoding, bit by bit (30_encoding.md R81, R82): fields other than those of the obligation -/

theorem test_decode_rm_reg_direct :
    decode Config.default [0b10001000#8, 0b11100101#8] = .ok (.movRmRegDirect false 0b100#3 0b101#3) [] := by decide
theorem test_decode_reg_rm_direct :
    decode Config.default [0b10001011#8, 0b11000001#8] = .ok (.movRegRmDirect true 0b000#3 0b001#3) [] := by decide
theorem test_decode_rm_reg_addr :
    decode Config.default [0b10001000#8, 0b00110110#8, 0xCD#8, 0xAB#8] =
      .ok (.movRmRegAddr false 0b110#3 0xABCD#16) [] := by decide
theorem test_decode_reg_rm_addr :
    decode Config.default [0b10001011#8, 0b00000110#8, 0x34#8, 0x12#8] =
      .ok (.movRegRmAddr true 0b000#3 0x1234#16) [] := by decide
theorem test_decode_rm_reg_mem :
    decode Config.default [0b10001001#8, 0b00000111#8] = .ok (.movRmRegMem true 0b000#3 0b111#3) [] := by decide
theorem test_decode_reg_rm_mem :
    decode Config.default [0b10001010#8, 0b00111101#8] = .ok (.movRegRmMem false 0b111#3 0b101#3) [] := by decide
theorem test_decode_rm_reg_disp8 :
    decode Config.default [0b10001001#8, 0b01010011#8, 0x80#8] =
      .ok (.movRmRegDisp8 true 0b010#3 0b011#3 0x80#8) [] := by decide
theorem test_decode_reg_rm_disp8 :
    decode Config.default [0b10001010#8, 0b01000100#8, 0x80#8] =
      .ok (.movRegRmDisp8 false 0b000#3 0b100#3 0x80#8) [] := by decide
theorem test_decode_rm_reg_disp16 :
    decode Config.default [0b10001000#8, 0b10110001#8, 0x01#8, 0x80#8] =
      .ok (.movRmRegDisp16 false 0b110#3 0b001#3 0x8001#16) [] := by decide
theorem test_decode_reg_rm_disp16 :
    decode Config.default [0b10001011#8, 0b10000110#8, 0x05#8, 0x00#8] =
      .ok (.movRegRmDisp16 true 0b000#3 0b110#3 0x0005#16) [] := by decide
theorem test_decode_reg_imm8 :
    decode Config.default [0b10110100#8, 0x8B#8] = .ok (.movRegImm8 0b100#3 0x8B#8) [] := by decide
theorem test_decode_reg_imm16 :
    decode Config.default [0b10111100#8, 0x00#8, 0x80#8] = .ok (.movRegImm16 0b100#3 0x8000#16) [] := by decide
theorem test_decode_unsupported :
    decode Config.default [0b11111111#8, 0x8B#8] = .ok (.unsupported 0xFF#8) [0x8B#8] := by decide

/-- 95_test_vectors.md T2, the literal-reading column at its boundaries, and U14. -/
theorem test_classify_other_parameters :
    (classify Config.literalReading 0x0F#8 = .imm ∧ classify Config.literalReading 0x10#8 = .unsupported ∧
      classify Config.literalReading 0x1F#8 = .unsupported ∧ classify Config.literalReading 0x20#8 = .rm ∧
      classify Config.literalReading 0x23#8 = .rm ∧ classify Config.literalReading 0x24#8 = .unsupported) ∧
    classify overlapping 0xB0#8 = .rm ∧ classify overlapping 0xB4#8 = .imm := by decide

/-- 95_test_vectors.md T2, the default column at its boundaries. -/
theorem test_classify_boundaries :
    classify Config.default 0x87#8 = .unsupported ∧ classify Config.default 0x88#8 = .rm ∧
      classify Config.default 0x8B#8 = .rm ∧ classify Config.default 0x8C#8 = .unsupported ∧
      classify Config.default 0xAF#8 = .unsupported ∧ classify Config.default 0xB0#8 = .imm ∧
      classify Config.default 0xBF#8 = .imm ∧ classify Config.default 0xC0#8 = .unsupported := by decide

/-- Octets that end inside an instruction, or none at all (95_test_vectors.md S8, V35, V40). -/
theorem test_decode_short :
    decode Config.default [] = .endOfStream ∧ decode Config.default [0x8B#8] = .truncated ∧
      decode Config.default [0x8B#8, 0x80#8, 0x05#8] = .truncated ∧
      decode Config.default [0xB8#8, 0x34#8] = .truncated := by decide

/-! ## One step of each row, from spec/95_test_vectors.md -/

/-- V1. -/
theorem test_step_rm_reg_direct : seen (step (onStream [0x89#8, 0xD9#8])) =
    some ([.instr ⟨.mov, .reg 9#4, .reg 11#4⟩], .fetch, 2, false, false) := by decide
/-- V5: codes 100 and 101 wide are `sp` and `bp`. -/
theorem test_step_reg_rm_direct : seen (step (onStream [0x8B#8, 0xE5#8])) =
    some ([.instr ⟨.mov, .reg 12#4, .reg 13#4⟩], .fetch, 2, false, false) := by decide
/-- V12. -/
theorem test_step_rm_reg_addr : seen (step (onStream [0x89#8, 0x0E#8, 0x34#8, 0x12#8])) =
    some ([.instr ⟨.mov, .mem [] (some 4660#16), .reg 9#4⟩], .fetch, 4, false, false) := by decide
/-- V14: the empty calculation. -/
theorem test_step_reg_rm_addr : seen (step (onStream [0x8B#8, 0x06#8, 0x00#8, 0x00#8])) =
    some ([.instr ⟨.mov, .reg 8#4, .mem [] none⟩], .fetch, 4, false, false) := by decide
/-- V10. -/
theorem test_step_rm_reg_mem : seen (step (onStream [0x88#8, 0x0C#8])) =
    some ([.instr ⟨.mov, .mem [14#4] none, .reg 1#4⟩], .fetch, 2, false, false) := by decide
/-- V11: a register also used as base. -/
theorem test_step_reg_rm_mem : seen (step (onStream [0x8B#8, 0x3D#8])) =
    some ([.instr ⟨.mov, .reg 15#4, .mem [15#4] none⟩], .fetch, 2, false, false) := by decide
/-- V17: a zero displacement is consumed and dropped; `rm = 110` is `bp`. -/
theorem test_step_rm_reg_disp8 : seen (step (onStream [0x88#8, 0x6E#8, 0x00#8])) =
    some ([.instr ⟨.mov, .mem [13#4] none, .reg 5#4⟩], .fetch, 3, false, false) := by decide
/-- V21: `0xFF` is 255, not -1. -/
theorem test_step_reg_rm_disp8 : seen (step (onStream [0x8B#8, 0x41#8, 0xFF#8])) =
    some ([.instr ⟨.mov, .reg 8#4, .mem [11#4, 15#4] (some 255#16)⟩], .fetch, 3, false, false) := by decide
/-- V22. -/
theorem test_step_rm_reg_disp16 : seen (step (onStream [0x89#8, 0x94#8, 0xE8#8, 0x03#8])) =
    some ([.instr ⟨.mov, .mem [14#4] (some 1000#16), .reg 10#4⟩], .fetch, 4, false, false) := by decide
/-- V27: the top bit of a 2-octet value. -/
theorem test_step_reg_rm_disp16 : seen (step (onStream [0x8B#8, 0x9B#8, 0x00#8, 0x80#8])) =
    some ([.instr ⟨.mov, .reg 11#4, .mem [13#4, 15#4] (some 32768#16)⟩], .fetch, 4, false, false) := by decide
/-- V28: a zero immediate is kept. -/
theorem test_step_reg_imm8 : seen (step (onStream [0xB0#8, 0x00#8])) =
    some ([.instr ⟨.mov, .reg 0#4, .imm 0#16⟩], .fetch, 2, false, false) := by decide
/-- V33. -/
theorem test_step_reg_imm16 : seen (step (onStream [0xBC#8, 0x00#8, 0x80#8])) =
    some ([.instr ⟨.mov, .reg 12#4, .imm 32768#16⟩], .fetch, 3, false, false) := by decide
/-- V36. -/
theorem test_step_unsupported : seen (step (onStream [0x8C#8])) =
    some ([.errUnsupported 0x8C#8], .fetch, 1, true, false) := by decide

/-! ## Ends of the stream -/

/-- V35. -/
theorem test_step_empty_stream : seen (step (onStream [])) = some ([.endOfRun], .haltEnd, 0, false, false) := by decide
/-- S8. -/
theorem test_step_truncated_one : seen (step (onStream [0x8B#8])) = some ([.errEos], .haltFault, 1, false, true) := by decide
/-- V41 and V43. -/
theorem test_step_truncated_more :
    seen (step (onStream [0x8B#8, 0x06#8, 0x34#8])) = some ([.errEos], .haltFault, 3, false, true) ∧
      seen (step (onStream [0xB8#8, 0x34#8])) = some ([.errEos], .haltFault, 2, false, true) := by decide

/-- V44: both flags in one run. -/
theorem test_run_both_flags : seen (core.run 2 (onStream [0xFF#8, 0x8B#8])) =
    some ([.errUnsupported 0xFF#8, .errEos], .haltFault, 2, true, true) := by decide

/-- 70_reset_and_hazards.md R265's example, its third attempt: two octets skipped, then a bogus instruction. -/
theorem test_run_resync : seen (core.run 3 (onStream [0xC7#8, 0x06#8, 0x8B#8, 0xC1#8, 0x05#8, 0x00#8])) =
    some ([.errUnsupported 0xC7#8, .errUnsupported 0x06#8, .instr ⟨.mov, .reg 8#4, .reg 9#4⟩], .fetch, 4, true, false) := by
  decide

/-- 95_test_vectors.md T8: rows 1 to 4 of the small-step machine, with the latches. -/
theorem test_octet_steps :
    ((nextOf (octetRun 3 (onStream [0x8B#8, 0x80#8, 0x34#8, 0x12#8, 0xB0#8, 0x2A#8]))).map
        (fun t => (t.st, t.opc, t.modb, t.lo, t.pos))) = some (.dispHi, 0x8B#8, 0x80#8, 0x34#8, 3) ∧
      seen (octetRun 4 (onStream [0x8B#8, 0x80#8, 0x34#8, 0x12#8, 0xB0#8, 0x2A#8])) =
        some ([.instr ⟨.mov, .reg 8#4, .mem [11#4, 14#4] (some 4660#16)⟩], .fetch, 4, false, false) := by decide

/-- 92_eei_decisions.md D6's alternative: after `ERR_EOS` back in `FETCH`, and the next request is refused. -/
theorem test_resume_policy :
    seen (step { onStream [0x8B#8] with cfg := resuming }) = some ([.errEos], .fetch, 1, false, true) ∧
      nextOf (core.run 2 { onStream [0x8B#8] with cfg := resuming }) = none := by decide

/-! ## Text (44_renderer.md; 95_test_vectors.md T9) -/

theorem test_render_empty_alternative :
    render { Config.default with emptyCalcText := ['[', '0', ']'] } ⟨.mov, .reg 8#4, .mem [] none⟩ =
      ['m', 'o', 'v', ' ', 'a', 'x', ',', ' ', '[', '0', ']'] := by decide

theorem test_output_line : outputLine Config.default (.instr ⟨.mov, .reg 0#4, .imm 42#16⟩) =
    ['m', 'o', 'v', ' ', 'a', 'l', ',', ' ', '4', '2', '\n'] := by decide

/-- The bound of R218: 65535 is a number of the grammar, 65536 and a numeral with a leading zero are not. -/
theorem test_grammar_number :
    GrammarNumber ['6', '5', '5', '3', '5'] ∧ ¬ GrammarNumber ['6', '5', '5', '3', '6'] ∧ ¬ GrammarNumber ['0', '1'] := by
  refine ⟨⟨.inr ⟨'6', ['5', '5', '3', '5'], rfl, by decide⟩, by decide⟩, fun h => absurd h.2 (by decide), ?_⟩
  rintro ⟨h | ⟨d, ds, h, -, hd, -⟩, -⟩
  · cases h
  · cases h
    exact hd rfl

/-! ## The host's two functions -/

theorem test_table_words :
    decodeTableWord 16 0x89D9 = some (.movRmRegDirect true 0b011#3 0b001#3) ∧
      decodeTableWord 16 0x8B06 = some (.movRegRmAddr true 0b000#3 0#16) ∧
      decodeTableWord 16 0xB02A = some (.movRegImm8 0b000#3 0x2A#8) ∧
      decodeTableWord 8 0x90 = some (.unsupported 0x90#8) ∧
      decodeTableWord 32 0x12348B06 = some (.movRegRmAddr true 0b000#3 0x1234#16) := by decide

theorem test_fetch_word : seen (step (State.reset.withFetchWord 16 0x8BC1)) =
    some ([.instr ⟨.mov, .reg 8#4, .reg 9#4⟩], .fetch, 2, false, false) := by decide

/-! ## Witnesses: hypotheses that are met, clause by clause -/

theorem witness_decodeOfEncode :
    Instr.WellFormed Config.default (.movRegRmMem true 0b011#3 0b111#3) = true ∧
      Instr.WellFormed Config.default (.movRegImm16 0b111#3 0xFFFF#16) = true ∧
      Instr.WellFormed Config.literalReading (.movRegImm8 0b000#3 0x00#8) = true ∧
      Instr.WellFormed Config.default (.unsupported 0xC0#8) = true := by decide

theorem witness_decodedOctetsAreTheEncoding :
    decode Config.default [0x8B#8, 0x40#8, 0x05#8, 0x90#8] = .ok (.movRegRmDisp8 true 0b000#3 0b000#3 0x05#8) [0x90#8] := by
  decide

theorem witness_classifier_clauses :
    (0x8B#8 : Byte).extractLsb' 2 6 = Config.default.opcRr6 ∧
      (0xB0#8 : Byte).extractLsb' 2 6 ≠ Config.default.opcRr6 ∧ (0xB0#8 : Byte).extractLsb' 4 4 = Config.default.opcImm4 ∧
      (0x8C#8 : Byte).extractLsb' 2 6 ≠ Config.default.opcRr6 ∧ (0x8C#8 : Byte).extractLsb' 4 4 ≠ Config.default.opcImm4 ∧
      Config.default.Disjoint ∧ Config.literalReading.Disjoint ∧ ¬ overlapping.Disjoint := by decide

/-- The mode bytes of 95_test_vectors.md T3, one for each clause, and both sizes of `IMM`. -/
theorem witness_instructionLengths :
    (decode Config.default [0x8B#8, 0xFE#8] = .ok (.movRegRmDirect true 0b111#3 0b110#3) [] ∧ modField 0xFE#8 = 0b11#2) ∧
    (decode Config.default [0x8B#8, 0x3F#8] = .ok (.movRegRmMem true 0b111#3 0b111#3) [] ∧
      modField 0x3F#8 = 0b00#2 ∧ rmField 0x3F#8 ≠ 0b110#3) ∧
    (decode Config.default [0x8B#8, 0x3E#8, 0x00#8, 0x00#8] = .ok (.movRegRmAddr true 0b111#3 0#16) [] ∧
      modField 0x3E#8 = 0b00#2 ∧ rmField 0x3E#8 = 0b110#3) ∧
    (decode Config.default [0x8B#8, 0x46#8, 0x00#8] = .ok (.movRegRmDisp8 true 0b000#3 0b110#3 0x00#8) [] ∧
      modField 0x46#8 = 0b01#2) ∧
    (decode Config.default [0x8B#8, 0x86#8, 0x05#8, 0x00#8] = .ok (.movRegRmDisp16 true 0b000#3 0b110#3 0x0005#16) [] ∧
      modField 0x86#8 = 0b10#2) ∧
    (classify Config.default 0xB7#8 = .imm ∧ immW 0xB7#8 = false) ∧ (classify Config.default 0xB8#8 = .imm ∧ immW 0xB8#8 = true) ∧
    classify Config.default 0x90#8 = .unsupported := by decide

theorem witness_opcodeTableFirstMatch :
    decode Config.default [0x89#8, 0x0E#8, 0x34#8, 0x12#8] = .ok (.movRmRegAddr true 0b001#3 0x1234#16) [] ∧
      decode Config.default [0x8C#8, 0x00#8] = .ok (.unsupported 0x8C#8) [0x00#8] ∧
      decode Config.default [0x8C#8] = .ok (.unsupported 0x8C#8) [] := by decide

/-- R98 on a stream of one octet: the catch-all row and the `IMM` rows do not look at byte 1, an `RM` row does. -/
theorem test_table_one_octet :
    (tableLookup 0x8C#8 none).map TableRow.form = some .unsupported ∧
      (tableLookup 0xB8#8 none).map TableRow.form = some .regImm16 ∧
      (opcodeTable.filter (fun r => r.fits 0x8B#8 none)).map TableRow.form = [.unsupported] := by decide

theorem witness_instructionsFromOctets :
    (modField 0xC1#8 = 0b11#2 ∧ modField 0x86#8 ≠ 0b11#2) ∧ opcD 0x89#8 = false ∧ opcD 0x8A#8 = true := by decide

theorem witness_supported_wellFormed :
    Instr.WellFormed Config.default (.movRmRegDisp16 true 0b010#3 0b100#3 0x03E8#16) = true ∧
      (Instr.movRmRegDisp16 true 0b010#3 0b100#3 0x03E8#16).isSupported = true ∧
      (Instr.movRegImm16 0b001#3 0x000C#16).isSupported = true := by decide

theorem witness_producible :
    Instruction.Producible ⟨.mov, .reg 8#4, .reg 9#4⟩ ∧
      Instruction.Producible ⟨.mov, .reg 8#4, .mem [11#4, 14#4] (some 5#16)⟩ ∧
      Instruction.Producible ⟨.mov, .mem [] none, .reg 0#4⟩ ∧ Instruction.Producible ⟨.mov, .reg 7#4, .imm 255#16⟩ :=
  ⟨rfl, ⟨.inr ⟨0b000#3, rfl⟩, by decide⟩, ⟨.inl rfl, by decide⟩, fun _ => by decide⟩

theorem witness_render_texts :
    (Config.default.emptyCalcText = ['[', ']'] ∨ Config.default.emptyCalcText = ['[', '0', ']']) ∧
      render Config.default ⟨.mov, .reg 8#4, .reg 9#4⟩ = render Config.default ⟨.mov, .reg 8#4, .reg 9#4⟩ := by decide

/-- The clauses of the tables: the direct-address case and its neighbours, a shown and a dropped displacement, both
sizes of an `IMM` byte, and a ROM address with the pair that reaches it. -/
theorem witness_table_clauses :
    isDirect 0b00#2 0b110#3 = true ∧ isDirect 0b01#2 0b110#3 = false ∧ isDirect 0b00#2 0b111#3 = false ∧
      (0x0001#16 : Word16) ≠ 0#16 ∧ (0b10#2 : Mod2) ≠ 0b11#2 ∧
      (classify Config.default 0xB7#8 = .imm ∧ immW 0xB7#8 = false) ∧
      (classify Config.default 0xB8#8 = .imm ∧ immW 0xB8#8 = true) ∧
      regIdx 0b011#3 true = 11#4 ∧ regIdx 0b111#3 false = 7#4 := by decide

theorem witness_rm_not_direct : (0b111#3 : Code3) ≠ 0b110#3 ∧ (0b000#3 : Code3) ≠ 0b110#3 := by decide

/-- The hypotheses of `RaisesEosAfter`, and of TruncationRaisesEos, for 1, 2 and 3 octets that arrived. -/
theorem witness_truncation :
    (fetchOctets (onStream [0x89#8, 0x0E#8, 0x34#8]) =
        (encode Config.default (.movRmRegAddr true 0b001#3 0x1234#16)).take 3 ∧
      fetchOctets (onStream [0xB8#8, 0x34#8]) = (encode Config.default (.movRegImm16 0b000#3 0x1234#16)).take 2 ∧
      fetchOctets (onStream [0x8B#8]) = (encode Config.default (.movRegRmDirect true 0b000#3 0b001#3)).take 1) ∧
    (onStream [0x8B#8]).cfg = Config.default ∧ Config.default.eosPolicy = .abort ∧
      (onStream [0x8B#8]).st = .fetch ∧ (onStream [0x8B#8]).source.ended = false ∧
      Instr.WellFormed Config.default (.movRmRegAddr true 0b001#3 0x1234#16) = true ∧
      (Instr.movRmRegAddr true 0b001#3 0x1234#16).isSupported = true ∧
      3 < (Instr.movRmRegAddr true 0b001#3 0x1234#16).size := by decide

/-- Both first-byte ends of the unsupported ranges, the byte being the stream's last or not. -/
theorem witness_unsupportedConsumesOneOctet :
    (onStream [0x8C#8]).st = .fetch ∧ (onStream [0x8C#8]).source.ended = false ∧
      (onStream [0x8C#8]).source.octet (onStream [0x8C#8]).pos = some 0x8C#8 ∧
      classify (onStream [0x8C#8]).cfg 0x8C#8 = .unsupported ∧
      (onStream [0x00#8, 0x8B#8]).source.octet 0 = some 0x00#8 ∧ classify Config.default 0x00#8 = .unsupported := by decide

theorem witness_frames :
    (nextOf (exec (.movRmRegDirect true 0b011#3 0b001#3) (onStream []))).isSome = true ∧
      (nextOf (exec (.movRegRmDisp8 true 0b000#3 0b110#3 0xFB#8) (onStream []))).isSome = true ∧
      (nextOf (exec (.movRmRegDisp16 true 0b010#3 0b100#3 0x03E8#16) (onStream []))).isSome = true ∧
      (nextOf (exec (.movRegImm8 0b000#3 0x2A#8) (onStream []))).isSome = true ∧
      (nextOf (exec (.movRegImm16 0b000#3 0x1234#16) (onStream []))).isSome = true ∧
      (nextOf (exec (.unsupported 0x90#8) (onStream []))).isSome = true := by decide

theorem witness_stepRunsDecodedInstruction :
    (onStream [0x8B#8, 0xC1#8]).st = .fetch ∧ (onStream [0x8B#8, 0xC1#8]).source.ended = false ∧
      decode Config.default (fetchOctets (onStream [0x8B#8, 0xC1#8, 0x90#8])) =
        .ok (.movRegRmDirect true 0b000#3 0b001#3) [0x90#8] ∧
      Instr.WellFormed Config.default (.movRegRmDirect true 0b000#3 0b001#3) = true := by decide

/-- The last octet of a stream, the first that is not there, and an endless stream. -/
theorem witness_nextOctet :
    (ByteSource.ofList [0x8B#8, 0xC1#8]).octet 1 = some 0xC1#8 ∧ (ByteSource.ofList [0x8B#8, 0xC1#8]).octet 2 = none ∧
      (ByteSource.ofList [0x8B#8, 0xC1#8]).length = some 2 ∧
      ({ ByteSource.ofList [0x90#8] with length := none } : ByteSource).octet 0 = some 0x90#8 := by decide

/-- A state for each arm of R140: the octet at hand, and what the arm tests of it or of the latches. -/
theorem witness_octetStep_arms :
    ((onStream [0x88#8]).source.octet 0 = some 0x88#8 ∧ classify Config.default 0x88#8 = .rm) ∧
    ((onStream [0xBF#8]).source.octet 0 = some 0xBF#8 ∧ classify Config.default 0xBF#8 = .imm) ∧
    ((onStream [0xC0#8]).source.octet 0 = some 0xC0#8 ∧ classify Config.default 0xC0#8 = .unsupported) ∧
    (ndisp ((0xC1#8 : Byte).extractLsb' 6 2) ((0xC1#8 : Byte).extractLsb' 0 3) = 0 ∧
      ndisp ((0x06#8 : Byte).extractLsb' 6 2) ((0x06#8 : Byte).extractLsb' 0 3) ≠ 0 ∧
      ndisp ((0x46#8 : Byte).extractLsb' 6 2) ((0x46#8 : Byte).extractLsb' 0 3) = 1 ∧
      ndisp ((0x86#8 : Byte).extractLsb' 6 2) ((0x86#8 : Byte).extractLsb' 0 3) ≠ 1) ∧
    ((0xB7#8 : Byte).getLsbD 3 = false ∧ (0xB8#8 : Byte).getLsbD 3 = true) ∧
    (onStream []).source.octet 0 = none ∧ (onStream []).source.ended = false ∧ (onStream []).cfg.eosPolicy = .abort := by
  decide

/-- Small steps and whole steps that answer a next state: on a byte, on `EOS`, inside an instruction. -/
theorem witness_steps_answer :
    (nextOf (octetStep (onStream [0x8B#8]))).isSome = true ∧ (nextOf (octetStep (onStream []))).isSome = true ∧
      (nextOf (step (onStream [0x8B#8, 0xC1#8]))).isSome = true ∧
      (nextOf (step { onStream [0x8B#8, 0xC1#8] with st := .mode, opc := 0x8B#8, pos := 1 })).isSome = true := by decide

/-- A finite stream with the cursor at its start and at its end, and an endless one. -/
theorem witness_finiteStream :
    (onStream [0x8B#8]).st.terminal = false ∧ (onStream [0x8B#8]).source.ended = false ∧
      (onStream [0x8B#8]).cfg.eosPolicy = .abort ∧ (onStream [0x8B#8]).source.length = some 1 ∧
      (onStream [0x8B#8]).pos ≤ 1 ∧ (onStream []).source.length = some 0 ∧ (onStream []).pos ≤ 0 ∧
      (State.start Config.default { ByteSource.empty with length := none }).source.length = none := by decide

/-- The same answer in `FETCH` and inside an instruction. -/
theorem witness_endOfStream :
    (onStream []).source.octet (onStream []).pos = none ∧ (onStream []).source.ended = false ∧ (onStream []).st = .fetch ∧
      ({ onStream [] with st := .immHi } : State).st.inside = true := by decide

theorem witness_stops :
    ({ onStream [] with st := .haltEnd } : State).st = .haltEnd ∧ ({ onStream [] with st := .haltFault } : State).st = .haltFault ∧
      (onStream []).markEnded.st.terminal = false ∧ (onStream []).markEnded.source.ended = true ∧
      (onStream []).st.terminal = false ∧ (onStream []).source.ended = false := by decide

/-- An invariant state from which a step answers a next state. -/
theorem witness_invariant_step : Inv (onStream [0x8B#8, 0xC1#8]) ∧ ∃ t, step (onStream [0x8B#8, 0xC1#8]) = .next t := by
  refine ⟨⟨⟨by decide, fun _ _ => Nat.zero_le _, by decide⟩, trivial, ?_, ?_, ?_⟩, ⟨_, rfl⟩⟩
  · simp [TraceInv, onStream, State.start, ByteSource.ofList]
  · simp [FlagInv, onStream, State.start]
  · simp [EventInv, onStream, State.start]

/-- An invariant state inside an instruction: the third octet of `8B 80 34 12` just latched. -/
theorem witness_invariant_inside :
    Inv { onStream [0x8B#8, 0x80#8, 0x34#8, 0x12#8] with st := .dispHi, opc := 0x8B#8, modb := 0x80#8, lo := 0x34#8, pos := 3 } ∧
      ∃ t, octetStep { onStream [0x8B#8, 0x80#8, 0x34#8, 0x12#8] with
        st := .dispHi, opc := 0x8B#8, modb := 0x80#8, lo := 0x34#8, pos := 3 } = .next t := by
  refine ⟨⟨⟨by decide, ?_, by decide⟩, ?_, ?_, ?_, ?_⟩, ⟨_, rfl⟩⟩
  · intro l h
    cases h
    decide
  · show _ ∧ _
    decide
  · simp [TraceInv, onStream, State.start, ByteSource.ofList]
  · simp [FlagInv, onStream, State.start]
  · simp [EventInv, onStream, State.start]

/-- The clean end of the stream `B0 2A` (95_test_vectors.md S5). -/
def cleanlyEnded : State :=
  { onStream [0xB0#8, 0x2A#8] with
    st := .haltEnd, opc := 0xB0#8, pos := 2, trace := [.instr ⟨.mov, .reg 0#4, .imm 42#16⟩, .endOfRun],
    source := { ByteSource.ofList [0xB0#8, 0x2A#8] with ended := true } }

theorem witness_cleanEnd : Inv cleanlyEnded ∧ cleanlyEnded.cleanEnd ∧ cleanlyEnded.cfg.eosPolicy = .abort := by
  refine ⟨⟨⟨by decide, ?_, ?_⟩, trivial, ?_, ?_, ?_⟩, ⟨rfl, rfl, rfl⟩, rfl⟩
  · intro l h
    cases h
    decide
  · intro _
    rfl
  · simp [TraceInv, cleanlyEnded, Event.isFinal, SeqState.terminal]
  · simp [FlagInv, cleanlyEnded, onStream, State.start]
  · simp [EventInv, cleanlyEnded, Event.Producible, Instruction.Producible]

/-- The state that `cleanlyEnded` names is where that stream's run ends. -/
theorem test_clean_end_is_reached : seen (core.run 2 (onStream [0xB0#8, 0x2A#8])) =
    some (cleanlyEnded.trace, .haltEnd, 2, false, false) := by decide

theorem witness_resetMeetsInvariant :
    (ByteSource.ofList [0x8B#8, 0xC1#8]).wf = true ∧ (ByteSource.ofList [0x8B#8, 0xC1#8]).ended = false := by decide

theorem witness_sticky : ∃ t, step { onStream [0x90#8] with unsupSeen := true, eosFault := true } = .next t := ⟨_, rfl⟩

/-- A run of two steps from `FETCH`. -/
theorem witness_latches : ∃ t, (onStream [0xB0#8, 0x2A#8]).st = .fetch ∧ core.run 2 (onStream [0xB0#8, 0x2A#8]) = .next t :=
  ⟨_, rfl, rfl⟩

/-- The same two octets at another position of a longer stream. -/
theorem witness_onlyConsumedOctetsMatter :
    (∃ t, step (onStream [0x8B#8, 0xC1#8]) = .next t ∧ t.source.ended = false ∧ t.pos = 2) ∧
      (ByteSource.ofList [0x90#8, 0x8B#8, 0xC1#8, 0xB0#8]).ended = false ∧
      ∀ k, k < 2 → (ByteSource.ofList [0x90#8, 0x8B#8, 0xC1#8, 0xB0#8]).octet (1 + k) =
        (onStream [0x8B#8, 0xC1#8]).source.octet k :=
  ⟨⟨_, rfl, rfl, rfl⟩, rfl, by decide⟩

/-- A stream of two instructions (95_test_vectors.md P1's last two rows have this shape). -/
theorem witness_cleanStream :
    (∀ i ∈ [Instr.movRegImm8 0b011#3 0x07#8, .movRmRegDirect true 0b000#3 0b001#3],
        i.WellFormed Config.default = true ∧ i.isSupported = true) ∧
      (onStream [0xB3#8, 0x07#8, 0x89#8, 0xC1#8]).st = .fetch ∧
      (∀ k, (onStream [0xB3#8, 0x07#8, 0x89#8, 0xC1#8]).source.octet (0 + k) =
        ([Instr.movRegImm8 0b011#3 0x07#8, .movRmRegDirect true 0b000#3 0b001#3].flatMap (encode Config.default))[k]?) := by
  refine ⟨by decide, rfl, fun k => ?_⟩
  match k with
  | 0 => decide
  | 1 => decide
  | 2 => decide
  | 3 => decide
  | k + 4 =>
    simp only [Nat.zero_add]
    have h : (ByteSource.ofList [0xB3#8, 0x07#8, 0x89#8, 0xC1#8]).has (k + 4) = false := by
      simp [ByteSource.has, ByteSource.ofList]
    simp [onStream, State.start, ByteSource.octet, h, encode]

end Sys2Proof.Tests
end

section
/-! The big step and the small steps of one decode attempt agree at every state (00_scope.md R11;
41_opcode_classifier.md R140, R141). Inside an instruction the attempt needs at most three more octets. From `FETCH`
both sides follow the octets ahead of the cursor, one sequencing state after the other. -/

namespace Sys2Proof.Machine

/-! ## `ndisp` read backwards (30_encoding.md R91) -/

theorem ndisp_eq_zero {mod : Mod2} {rm : Code3} :
    ndisp mod rm = 0 ↔ mod = 0b11#2 ∨ (mod = 0b00#2 ∧ rm ≠ 0b110#3) := by
  revert mod rm
  decide

theorem ndisp_eq_one {mod : Mod2} {rm : Code3} : ndisp mod rm = 1 ↔ mod = 0b01#2 := by
  revert mod rm
  decide

theorem ndisp_eq_two {mod : Mod2} {rm : Code3} :
    ndisp mod rm = 2 ↔ mod = 0b10#2 ∨ (mod = 0b00#2 ∧ rm = 0b110#3) := by
  revert mod rm
  decide

theorem ndisp_cases (mod : Mod2) (rm : Code3) : ndisp mod rm = 0 ∨ ndisp mod rm = 1 ∨ ndisp mod rm = 2 := by
  revert mod rm
  decide

/-! ## The meanings of the rows, by the shape of their octets -/

/-- The four `RM` rows without displacement have one meaning. -/
theorem exec_rmNoDisp {mod : Mod2} {rm : Code3} (h : ndisp mod rm = 0) (d w : Bool) (reg : Code3) (s : State) :
    exec (rmNoDisp d w mod reg rm) s = .next (completeRm 2 (rmOpcode s.cfg d w) (modeByte mod reg rm)
      (orderOperands d (rmOperand mod rm w none) (regOperand reg w)) s) := by
  obtain rfl | ⟨rfl, hrm⟩ := ndisp_eq_zero.1 h
  · cases d <;> rfl
  · have hb : basesOf 0b00#2 rm = bases rm := by simp [basesOf, isDirect, hrm]
    cases d <;>
      simp [rmNoDisp, exec, execMovRmRegMem, execMovRegRmMem, orderOperands, rmOperand, regOperand, hb, shown]

/-- The two `RM` rows with a 1-octet displacement have one meaning. -/
theorem exec_rmDisp8 {mod : Mod2} {rm : Code3} (h : ndisp mod rm = 1) (d w : Bool) (reg : Code3) (v : Byte)
    (s : State) :
    exec (rmDisp8 d w reg rm v) s = .next (completeRm 3 (rmOpcode s.cfg d w) (modeByte mod reg rm)
      (orderOperands d (rmOperand mod rm w (some (zext16 v))) (regOperand reg w)) s) := by
  obtain rfl := ndisp_eq_one.1 h
  cases d <;> rfl

/-- The four `RM` rows with a 2-octet displacement or address have one meaning. -/
theorem exec_rmTwoOctets {mod : Mod2} {rm : Code3} (h : ndisp mod rm = 2) (d w : Bool) (reg : Code3) (v : Word16)
    (s : State) :
    exec (rmTwoOctets d w mod reg rm v) s = .next (completeRmLo (rmOpcode s.cfg d w) (modeByte mod reg rm)
      (lowOctet v) (orderOperands d (rmOperand mod rm w (some v)) (regOperand reg w)) s) := by
  obtain rfl | ⟨rfl, rfl⟩ := ndisp_eq_two.1 h <;> cases d <;> rfl

/-- The meaning of `opc = b`, `modb = m` without displacement is `build_rm` (42_mov_rm_reg.md R163). -/
theorem exec_rmNoDisp_fields {s : State} {b m : Byte} (hc : classify s.cfg b = .rm)
    (hn : ndisp (modField m) (rmField m) = 0) :
    exec (rmNoDisp (opcD b) (opcW b) (modField m) (regField m) (rmField m)) s =
      .next (completeRm 2 b m (buildRm b m none) s) := by
  rw [exec_rmNoDisp hn, rmOpcode_of_classify hc, modeByte_of_fields]
  rfl

theorem exec_rmDisp8_fields {s : State} {b m : Byte} (l : Byte) (hc : classify s.cfg b = .rm)
    (hn : ndisp (modField m) (rmField m) = 1) :
    exec (rmDisp8 (opcD b) (opcW b) (regField m) (rmField m) l) s =
      .next (completeRm 3 b m (buildRm b m (some (zext16 l))) s) := by
  rw [exec_rmDisp8 hn, rmOpcode_of_classify hc, modeByte_of_fields]
  rfl

theorem exec_rmTwoOctets_fields {s : State} {b m : Byte} (l h : Byte) (hc : classify s.cfg b = .rm)
    (hn : ndisp (modField m) (rmField m) = 2) :
    exec (rmTwoOctets (opcD b) (opcW b) (modField m) (regField m) (rmField m) (hiLo h l)) s =
      .next (completeRmLo b m l (buildRm b m (some (hiLo h l))) s) := by
  rw [exec_rmTwoOctets hn, rmOpcode_of_classify hc, modeByte_of_fields, lowOctet_hiLo]
  rfl

/-- The meaning of `opc = b` with an immediate octet is `build_imm` (43_mov_reg_imm.md R195). -/
theorem exec_movRegImm8_fields {s : State} {b : Byte} (l : Byte) (hc : classify s.cfg b = .imm)
    (hw : immW b = false) :
    exec (.movRegImm8 (immReg b) l) s =
      .next (((s.advance 2).latchOpc b).complete (buildImm b (zext16 l))) := by
  have hb : immOpcode s.cfg false (immReg b) = b := hw ▸ immOpcode_of_classify hc
  simp only [exec, execMovRegImm8, buildImm, hb, hw]

theorem exec_movRegImm16_fields {s : State} {b : Byte} (l h : Byte) (hc : classify s.cfg b = .imm)
    (hw : immW b = true) :
    exec (.movRegImm16 (immReg b) (hiLo h l)) s =
      .next ((((s.advance 3).latchOpc b).latchLo l).complete (buildImm b (hiLo h l))) := by
  have hb : immOpcode s.cfg true (immReg b) = b := hw ▸ immOpcode_of_classify hc
  simp only [exec, execMovRegImm16, buildImm, hb, hw, lowOctet_hiLo]

/-! ## The octets ahead of the cursor -/

theorem fetchOctets_of_one {s : State} {b : Byte} (h0 : s.source.octet s.pos = some b) :
    fetchOctets s = b :: s.source.window (s.pos + 1) 3 := ByteSource.window_some h0 3

theorem fetchOctets_of_two {s : State} {b m : Byte} (h0 : s.source.octet s.pos = some b)
    (h1 : s.source.octet (s.pos + 1) = some m) :
    fetchOctets s = b :: m :: s.source.window (s.pos + 2) 2 := by
  rw [fetchOctets_of_one h0, ByteSource.window_some h1]

theorem fetchOctets_of_three {s : State} {b m l : Byte} (h0 : s.source.octet s.pos = some b)
    (h1 : s.source.octet (s.pos + 1) = some m) (h2 : s.source.octet (s.pos + 2) = some l) :
    fetchOctets s = b :: m :: l :: s.source.window (s.pos + 3) 1 := by
  rw [fetchOctets_of_two h0 h1, ByteSource.window_some h2]

/-! ## What `decode` finds, by the class of the opcode byte and the octets that follow -/

section
variable {c : Config} {b m : Byte}

theorem decode_of_unsupported (hc : classify c b = .unsupported) (bs : List Byte) :
    decode c (b :: bs) = .ok (.unsupported b) bs := by
  simp [decode, hc]

theorem decode_of_rm (hc : classify c b = .rm) (bs : List Byte) : decode c (b :: bs) = decodeRm b bs := by
  simp [decode, hc]

theorem decodeRm_noDisp (hn : ndisp (modField m) (rmField m) = 0) (bs : List Byte) : decodeRm b (m :: bs) =
    .ok (rmNoDisp (opcD b) (opcW b) (modField m) (regField m) (rmField m)) bs := by
  simp [decodeRm, hn]

theorem decodeRm_disp8 (hn : ndisp (modField m) (rmField m) = 1) (l : Byte) (bs : List Byte) :
    decodeRm b (m :: l :: bs) = .ok (rmDisp8 (opcD b) (opcW b) (regField m) (rmField m) l) bs := by
  simp [decodeRm, hn]

theorem decodeRm_twoOctets (hn : ndisp (modField m) (rmField m) = 2) (l h : Byte) (bs : List Byte) :
    decodeRm b (m :: l :: h :: bs) =
      .ok (rmTwoOctets (opcD b) (opcW b) (modField m) (regField m) (rmField m) (hiLo h l)) bs := by
  simp [decodeRm, hn]

theorem decodeRm_no_displacement_octet (hn : ndisp (modField m) (rmField m) ≠ 0) :
    decodeRm b [m] = .truncated := by
  obtain hn | hn := (ndisp_cases (modField m) (rmField m)).resolve_left hn <;> simp [decodeRm, hn]

theorem decodeRm_no_high_octet (hn : ndisp (modField m) (rmField m) = 2) (l : Byte) :
    decodeRm b [m, l] = .truncated := by
  simp [decodeRm, hn]

theorem decode_of_imm (hc : classify c b = .imm) (bs : List Byte) : decode c (b :: bs) = decodeImm b bs := by
  simp [decode, hc]

theorem decodeImm_byte (hw : immW b = false) (l : Byte) (bs : List Byte) :
    decodeImm b (l :: bs) = .ok (.movRegImm8 (immReg b) l) bs := by
  simp [decodeImm, hw]

theorem decodeImm_word (hw : immW b = true) (l h : Byte) (bs : List Byte) :
    decodeImm b (l :: h :: bs) = .ok (.movRegImm16 (immReg b) (hiLo h l)) bs := by
  simp [decodeImm, hw]

theorem decodeImm_nil (b : Byte) : decodeImm b [] = .truncated := by
  cases hw : immW b <;> simp [decodeImm, hw]

theorem decodeImm_no_high_octet (hw : immW b = true) (l : Byte) : decodeImm b [l] = .truncated := by
  simp [decodeImm, hw]

end

/-! ## The big step from `FETCH`, by what `decode` finds -/

theorem step_of_ended {s : State} (hs : s.st = .fetch) (he : s.source.ended = true) :
    step s = .refused .requestAfterEos := by
  simp [step, hs, he]

theorem step_of_decode_ok {s : State} {i : Instr} {rest : List Byte} (hs : s.st = .fetch)
    (he : s.source.ended = false) (hd : decode s.cfg (fetchOctets s) = .ok i rest) : step s = exec i s := by
  simp [step, hs, he, hd]

theorem step_of_decode_endOfStream {s : State} (hs : s.st = .fetch) (he : s.source.ended = false)
    (hd : decode s.cfg (fetchOctets s) = .endOfStream) : step s = .next (attemptAtEnd s) := by
  simp [step, hs, he, hd]

theorem step_of_decode_truncated {s : State} {got : List Byte} (hs : s.st = .fetch) (he : s.source.ended = false)
    (hf : fetchOctets s = got) (hd : decode s.cfg got = .truncated) :
    step s = .next (attemptTruncated got s) := by
  simp [step, hs, he, hf, hd]

/-! ## An attempt by small steps -/

theorem takeEos_not_inside (s : State) : (takeEos s).st.inside = false := by
  unfold takeEos
  cases hs : s.st <;> cases hp : s.cfg.eosPolicy <;> simp [hs, hp, eosTarget, SeqState.inside]

theorem finishAttempt_continue {s u : State} {b : Byte} (k : Nat) (ht : s.st.terminal = false)
    (he : s.source.ended = false) (ho : s.source.octet s.pos = some b) (hu : takeByte b (s.advance 1) = u)
    (hin : u.st.inside = true) : finishAttempt (k + 1) s = finishAttempt k u := by
  simp [finishAttempt_succ, octetStep_byte ht he ho, hu, hin]

theorem finishAttempt_done {s u : State} {b : Byte} (k : Nat) (ht : s.st.terminal = false)
    (he : s.source.ended = false) (ho : s.source.octet s.pos = some b) (hu : takeByte b (s.advance 1) = u)
    (hout : u.st.inside = false) : finishAttempt (k + 1) s = .next u := by
  simp [finishAttempt_succ, octetStep_byte ht he ho, hu, hout]

theorem finishAttempt_eos {s : State} (k : Nat) (ht : s.st.terminal = false) (he : s.source.ended = false)
    (ho : s.source.octet s.pos = none) : finishAttempt (k + 1) s = .next (takeEos s.markEnded) := by
  simp [finishAttempt_succ, octetStep_eos ht he ho, takeEos_not_inside]

/-! ## Inside an instruction three small steps are enough -/

/-- How many octets an attempt in this sequencing state can still ask for (30_encoding.md R84). -/
def SeqState.octetsLeft : SeqState → Nat
  | .fetch => 4
  | .mode => 3
  | .dispLo => 2
  | .dispHi => 1
  | .immLo => 2
  | .immHi => 1
  | .haltEnd => 0
  | .haltFault => 0

theorem SeqState.octetsLeft_pos {q : SeqState} (h : q.inside = true) : 0 < q.octetsLeft := by
  revert h
  cases q <;> decide

theorem SeqState.octetsLeft_le_three {q : SeqState} (h : q.inside = true) : q.octetsLeft ≤ 3 := by
  revert h
  cases q <;> decide

theorem takeByte_octetsLeft (b : Byte) {s : State} (h : (takeByte b s).st.inside = true) :
    (takeByte b s).st.octetsLeft < s.st.octetsLeft := by
  revert h
  unfold takeByte
  repeat' split
  all_goals simp_all [SeqState.inside, SeqState.octetsLeft]

/-- A small step that leaves the attempt unfinished brings its end nearer. -/
theorem octetStep_octetsLeft {s t : State} (h : octetStep s = .next t) (hin : t.st.inside = true) :
    t.st.octetsLeft < s.st.octetsLeft := by
  obtain ⟨-, -, ⟨b, -, rfl⟩ | ⟨-, rfl⟩⟩ := octetStep_cases h
  · exact takeByte_octetsLeft b hin
  · rw [takeEos_not_inside] at hin
    cases hin

/-- Small steps beyond the octets an attempt can ask for change nothing. -/
theorem finishAttempt_enough (k : Nat) {s : State} (hin : s.st.inside = true) (hk : s.st.octetsLeft ≤ k) :
    finishAttempt (k + 1) s = finishAttempt k s := by
  induction k generalizing s with
  | zero => exact absurd (SeqState.octetsLeft_pos hin) (by omega)
  | succ k ih =>
    rw [finishAttempt_succ (k + 1), finishAttempt_succ k]
    cases ho : octetStep s with
    | next t =>
      cases ht : t.st.inside with
      | true =>
        have hlt := octetStep_octetsLeft ho ht
        simpa [ht] using ih ht (by omega)
      | false => simp [ht]
    | fault r => rfl
    | refused r => rfl

theorem step_eq_finishAttempt_of_inside {s : State} (h : s.st.inside = true) : step s = finishAttempt 4 s := by
  have hstep : step s = finishAttempt 3 s := by
    unfold step
    cases hs : s.st <;> simp_all [SeqState.inside]
  rw [hstep, finishAttempt_enough 3 h (SeqState.octetsLeft_le_three h)]

theorem step_eq_finishAttempt_of_terminal {s : State} (h : s.st.terminal = true) :
    step s = finishAttempt 4 s := by
  cases hs : s.st <;> simp_all [SeqState.terminal, step, finishAttempt_succ, octetStep]

/-! ## From `FETCH`: where the small steps stand after each octet -/

/-- After the opcode byte of format `RM`. -/
def State.atMode (s : State) (b : Byte) : State := ((s.advance 1).latchOpc b).goto .mode

/-- After the mode byte, with a displacement to come. -/
def State.atDispLo (s : State) (b m : Byte) : State := (((s.advance 2).latchOpc b).latchModb m).goto .dispLo

/-- After the low octet of a 2-octet displacement. -/
def State.atDispHi (s : State) (b m l : Byte) : State :=
  ((((s.advance 3).latchOpc b).latchModb m).latchLo l).goto .dispHi

/-- After the opcode byte of format `IMM`. -/
def State.atImmLo (s : State) (b : Byte) : State := ((s.advance 1).latchOpc b).goto .immLo

/-- After the low octet of a 2-octet immediate. -/
def State.atImmHi (s : State) (b l : Byte) : State := (((s.advance 2).latchOpc b).latchLo l).goto .immHi

/-! ## From `FETCH`: the big step is what the small steps do from each of these states on

Each theorem splits on the next octet: at `EOS` both sides raise UnexpectedEndOfStream with the latches reached so far,
at the instruction's last octet both sides complete it, and at any other octet the next state's theorem takes over. -/

section
variable {s : State} {b m l : Byte} (hs : s.st = .fetch) (he : s.source.ended = false)
  (h0 : s.source.octet s.pos = some b)
include hs he h0

theorem step_eq_finishAttempt_atDispHi (h1 : s.source.octet (s.pos + 1) = some m)
    (h2 : s.source.octet (s.pos + 2) = some l) (hc : classify s.cfg b = .rm)
    (hn : ndisp (modField m) (rmField m) = 2) : step s = finishAttempt 1 (s.atDispHi b m l) := by
  have hf := fetchOctets_of_three h0 h1 h2
  cases h3 : s.source.octet (s.pos + 3) with
  | none =>
    rw [ByteSource.window_none h3] at hf
    rw [step_of_decode_truncated hs he hf ((decode_of_rm hc _).trans (decodeRm_no_high_octet hn l)),
      finishAttempt_eos (s := s.atDispHi b m l) 0 rfl he h3]
    rfl
  | some h =>
    rw [ByteSource.window_some h3] at hf
    rw [step_of_decode_ok hs he (hf ▸ (decode_of_rm hc _).trans (decodeRm_twoOctets hn l h _)),
      exec_rmTwoOctets_fields l h hc hn, finishAttempt_done (s := s.atDispHi b m l) 0 rfl he h3 rfl rfl]
    rfl

theorem step_eq_finishAttempt_atDispLo (h1 : s.source.octet (s.pos + 1) = some m)
    (hc : classify s.cfg b = .rm) (hn : ndisp (modField m) (rmField m) ≠ 0) :
    step s = finishAttempt 2 (s.atDispLo b m) := by
  have hf := fetchOctets_of_two h0 h1
  cases h2 : s.source.octet (s.pos + 2) with
  | none =>
    rw [ByteSource.window_none h2] at hf
    rw [step_of_decode_truncated hs he hf ((decode_of_rm hc _).trans (decodeRm_no_displacement_octet hn)),
      finishAttempt_eos (s := s.atDispLo b m) 1 rfl he h2, attemptTruncated, latchPartial, hc]
    rfl
  | some l =>
    obtain hn | hn := (ndisp_cases (modField m) (rmField m)).resolve_left hn
    · rw [ByteSource.window_some h2] at hf
      rw [step_of_decode_ok hs he (hf ▸ (decode_of_rm hc _).trans (decodeRm_disp8 hn l _)),
        exec_rmDisp8_fields l hc hn, finishAttempt_done (s := s.atDispLo b m) 1 rfl he h2 (if_pos hn) rfl]
      rfl
    · have hu : takeByte l ((s.atDispLo b m).advance 1) = s.atDispHi b m l := if_neg (by simp [hn, State.atDispLo])
      rw [step_eq_finishAttempt_atDispHi hs he h0 h1 h2 hc hn,
        finishAttempt_continue (s := s.atDispLo b m) 1 rfl he h2 hu rfl]

theorem step_eq_finishAttempt_atMode (hc : classify s.cfg b = .rm) : step s = finishAttempt 3 (s.atMode b) := by
  cases h1 : s.source.octet (s.pos + 1) with
  | none =>
    have hf := fetchOctets_of_one h0
    rw [ByteSource.window_none h1] at hf
    rw [step_of_decode_truncated hs he hf (decode_of_rm hc _), finishAttempt_eos (s := s.atMode b) 2 rfl he h1]
    rfl
  | some m =>
    have hf := fetchOctets_of_two h0 h1
    by_cases hn : ndisp (modField m) (rmField m) = 0
    · rw [step_of_decode_ok hs he (hf ▸ (decode_of_rm hc _).trans (decodeRm_noDisp hn _)),
        exec_rmNoDisp_fields hc hn, finishAttempt_done (s := s.atMode b) 2 rfl he h1 (if_pos hn) rfl]
      rfl
    · have hu : takeByte m ((s.atMode b).advance 1) = s.atDispLo b m := if_neg hn
      rw [step_eq_finishAttempt_atDispLo hs he h0 h1 hc hn,
        finishAttempt_continue (s := s.atMode b) 2 rfl he h1 hu rfl]

theorem step_eq_finishAttempt_atImmHi (h1 : s.source.octet (s.pos + 1) = some l)
    (hc : classify s.cfg b = .imm) (hw : immW b = true) : step s = finishAttempt 2 (s.atImmHi b l) := by
  have hf := fetchOctets_of_two h0 h1
  cases h2 : s.source.octet (s.pos + 2) with
  | none =>
    rw [ByteSource.window_none h2] at hf
    rw [step_of_decode_truncated hs he hf ((decode_of_imm hc _).trans (decodeImm_no_high_octet hw l)),
      finishAttempt_eos (s := s.atImmHi b l) 1 rfl he h2, attemptTruncated, latchPartial, hc]
    rfl
  | some h =>
    rw [ByteSource.window_some h2] at hf
    rw [step_of_decode_ok hs he (hf ▸ (decode_of_imm hc _).trans (decodeImm_word hw l h _)),
      exec_movRegImm16_fields l h hc hw, finishAttempt_done (s := s.atImmHi b l) 1 rfl he h2 rfl rfl]
    rfl

theorem step_eq_finishAttempt_atImmLo (hc : classify s.cfg b = .imm) :
    step s = finishAttempt 3 (s.atImmLo b) := by
  cases h1 : s.source.octet (s.pos + 1) with
  | none =>
    have hf := fetchOctets_of_one h0
    rw [ByteSource.window_none h1] at hf
    rw [step_of_decode_truncated hs he hf ((decode_of_imm hc _).trans (decodeImm_nil b)),
      finishAttempt_eos (s := s.atImmLo b) 2 rfl he h1]
    rfl
  | some l =>
    have hf := fetchOctets_of_two h0 h1
    cases hw : immW b with
    | false =>
      rw [step_of_decode_ok hs he (hf ▸ (decode_of_imm hc _).trans (decodeImm_byte hw l _)),
        exec_movRegImm8_fields l hc hw, finishAttempt_done (s := s.atImmLo b) 2 rfl he h1 (if_pos hw) rfl]
      rfl
    | true =>
      have hu : takeByte l ((s.atImmLo b).advance 1) = s.atImmHi b l := if_neg (by simp [hw, State.atImmLo])
      rw [step_eq_finishAttempt_atImmHi hs he h0 h1 hc hw,
        finishAttempt_continue (s := s.atImmLo b) 2 rfl he h1 hu rfl]

end

theorem step_eq_finishAttempt_of_fetch {s : State} (hs : s.st = .fetch) (he : s.source.ended = false) :
    step s = finishAttempt 4 s := by
  have ht : s.st.terminal = false := by rw [hs]; rfl
  cases h0 : s.source.octet s.pos with
  | none =>
    have hf : fetchOctets s = [] := ByteSource.window_none h0 maxSize
    rw [step_of_decode_endOfStream hs he (by rw [hf]; rfl), finishAttempt_eos 3 ht he h0]
    simp [takeEos, hs, attemptAtEnd]
  | some b =>
    cases hc : classify s.cfg b with
    | rm =>
      have hu : takeByte b (s.advance 1) = s.atMode b := by simp [takeByte, hs, hc, State.atMode]
      rw [step_eq_finishAttempt_atMode hs he h0 hc, finishAttempt_continue 3 ht he h0 hu rfl]
    | imm =>
      have hu : takeByte b (s.advance 1) = s.atImmLo b := by simp [takeByte, hs, hc, State.atImmLo]
      rw [step_eq_finishAttempt_atImmLo hs he h0 hc, finishAttempt_continue 3 ht he h0 hu rfl]
    | unsupported =>
      have hu : takeByte b (s.advance 1) = raiseUnsupported b (s.advance 1) := by simp [takeByte, hs, hc]
      rw [step_of_decode_ok hs he (fetchOctets_of_one h0 ▸ decode_of_unsupported hc _),
        finishAttempt_done 3 ht he h0 hu rfl]
      rfl

/-- Settles O40: in the terminal states and after `EOS` both sides stop alike, inside an instruction three small steps
are enough, and from `FETCH` both sides follow the octets ahead. -/
theorem bigStepIsTheOctetSteps : Obligations.BigStepIsTheOctetSteps := by
  unfold Obligations.BigStepIsTheOctetSteps
  intro s
  cases ht : s.st.terminal with
  | true => exact step_eq_finishAttempt_of_terminal ht
  | false =>
    cases hin : s.st.inside with
    | true => exact step_eq_finishAttempt_of_inside hin
    | false =>
      have hs : s.st = .fetch := by cases hs : s.st <;> simp_all [SeqState.terminal, SeqState.inside]
      cases he : s.source.ended with
      | true => simp [step_of_ended hs he, finishAttempt_succ, octetStep, requestOctet, hs, he]
      | false => exact step_eq_finishAttempt_of_fetch hs he

end Sys2Proof.Machine
end

section
/-! What one decode attempt does to the trace and the cursor, and the machine's invariant (10_state.md R21 to R32). Every
fact about the whole attempt is got from the small steps of 41_opcode_classifier.md R140, which it is made of. -/

namespace Sys2Proof.Machine

/-! ## The operands the decoder builds are producible (10_state.md R28 to R30) -/

/-- The size of a register is its ROM address's top bit (40_register_rom.md R111, R114). -/
@[simp] theorem msb_regIdx (code : Code3) (w : Bool) : (regIdx code w).msb = w := by
  revert code w
  decide

/-- A shown displacement is never zero (42_mov_rm_reg.md R159). -/
theorem shown_ne_zero (dv : Option Word16) : shown dv ≠ some 0#16 := by
  cases dv with
  | none => simp [shown]
  | some v =>
    by_cases hv : v = 0#16
    · simp [shown, hv]
    · simp [shown, hv]

theorem memProducible_nil (dv : Option Word16) : MemProducible [] (shown dv) := ⟨.inl rfl, shown_ne_zero dv⟩

theorem memProducible_bases (rm : Code3) (dv : Option Word16) : MemProducible (bases rm) (shown dv) :=
  ⟨.inr ⟨rm, rfl⟩, shown_ne_zero dv⟩

theorem memProducible_basesOf (mod : Mod2) (rm : Code3) (dv : Option Word16) :
    MemProducible (basesOf mod rm) (shown dv) := by
  unfold basesOf
  split
  · exact memProducible_nil dv
  · exact memProducible_bases rm dv

/-- `build_rm` gives a register pair of one size, or a register and a memory operand, in either order. -/
theorem buildRm_producible (opc modb : Byte) (dv : Option Word16) : (buildRm opc modb dv).Producible := by
  by_cases hm : modField modb = 0b11#2
  · cases hd : opcD opc <;>
      simp [buildRm, orderOperands, rmOperand, regOperand, Instruction.Producible, hd, hm]
  · cases hd : opcD opc <;>
      simp [buildRm, orderOperands, rmOperand, regOperand, Instruction.Producible, hd, hm, memProducible_basesOf]

theorem buildImm_word_producible {opc : Byte} (hw : immW opc = true) (v : Word16) :
    (buildImm opc v).Producible := by
  simp [buildImm, Instruction.Producible, hw]

/-- A 1-octet immediate is below 256 in a register of either size. -/
theorem buildImm_zext16_producible (opc l : Byte) : (buildImm opc (zext16 l)).Producible := by
  intro _
  simpa using l.isLt

/-! ## What the two answers do (41_opcode_classifier.md R140) -/

theorem SeqState.eq_fetch_of_not_inside {q : SeqState} (ht : q.terminal = false) (hin : q.inside = false) :
    q = .fetch := by
  cases q <;> simp_all [SeqState.terminal, SeqState.inside]

theorem SeqState.not_terminal_of_inside {q : SeqState} (hin : q.inside = true) : q.terminal = false := by
  cases q <;> simp_all [SeqState.terminal, SeqState.inside]

/-- Everything a `byte` answer can do to the trace: nothing, while the instruction goes on; the event of an instruction,
which is producible if in `IMM_HI` the opcode byte is a word's; or UnsupportedOpcode. -/
theorem takeByte_cases (b : Byte) {s : State} (ht : s.st.terminal = false) :
    ((takeByte b s).st.inside = true ∧ (takeByte b s).trace = s.trace ∧ (takeByte b s).unsupSeen = s.unsupSeen) ∨
    ((takeByte b s).st = .fetch ∧ (takeByte b s).unsupSeen = s.unsupSeen ∧
      ∃ i, (takeByte b s).trace = s.trace ++ [.instr i] ∧
        ((s.st = .immHi → immW s.opc = true) → i.Producible)) ∨
    (classify s.cfg b = .unsupported ∧ takeByte b s = raiseUnsupported b s) := by
  cases hs : s.st with
  | fetch => cases hc : classify s.cfg b <;> simp [takeByte, hs, hc, SeqState.inside]
  | mode =>
    by_cases hn : ndisp (modField b) (rmField b) = 0 <;>
      simp [takeByte, hs, hn, SeqState.inside, buildRm_producible]
  | dispLo =>
    by_cases hn : ndisp (modField s.modb) (rmField s.modb) = 1 <;>
      simp [takeByte, hs, hn, SeqState.inside, buildRm_producible]
  | dispHi => simp [takeByte, hs, buildRm_producible]
  | immLo => cases hw : immW s.opc <;> simp [takeByte, hs, hw, SeqState.inside, buildImm_zext16_producible]
  | immHi => exact .inr (.inl (by simpa [takeByte, hs] using fun hw => buildImm_word_producible hw (hiLo b s.lo)))
  | haltEnd => simp [hs, SeqState.terminal] at ht
  | haltFault => simp [hs, SeqState.terminal] at ht

/-- Everything an `EOS` answer can do: the top-level end in `FETCH`, UnexpectedEndOfStream elsewhere (R233). -/
theorem takeEos_cases {s : State} (ht : s.st.terminal = false) :
    takeEos s = topLevelEnd s ∨ takeEos s = raiseEos s := by
  cases hs : s.st <;> simp_all [takeEos, SeqState.terminal]

/-! ## One attempt, one event (10_state.md R32) -/

/-- A small step emits one event exactly when the attempt is over. -/
theorem octetStep_trace {s t : State} (h : octetStep s = .next t) :
    (t.st.inside = true ∧ t.trace = s.trace) ∨ (t.st.inside = false ∧ ∃ e, t.trace = s.trace ++ [e]) := by
  obtain ⟨ht, -, ⟨b, -, rfl⟩ | ⟨-, rfl⟩⟩ := octetStep_cases h
  · obtain ⟨hin, htr, -⟩ | ⟨hst, -, i, htr, -⟩ | ⟨-, hr⟩ := takeByte_cases b (s := s.advance 1) ht
    · exact .inl ⟨hin, htr⟩
    · exact .inr ⟨by rw [hst]; rfl, _, htr⟩
    · exact .inr ⟨by rw [hr]; rfl, _, by rw [hr]; rfl⟩
  · refine .inr ⟨takeEos_not_inside _, ?_⟩
    obtain hr | hr := takeEos_cases (s := s.markEnded) ht
    · exact ⟨_, by rw [hr]; rfl⟩
    · exact ⟨_, by rw [hr]; rfl⟩

/-- A small step moves the cursor by at most one octet. -/
theorem octetStep_pos {s t : State} (h : octetStep s = .next t) : s.pos ≤ t.pos ∧ t.pos ≤ s.pos + 1 := by
  obtain ⟨-, -, ⟨b, -, rfl⟩ | ⟨-, rfl⟩⟩ := octetStep_cases h <;> simp

/-- The first small step of an attempt either ends it or leaves the rest to be finished. -/
theorem finishAttempt_succ_cases {k : Nat} {s t : State} (h : finishAttempt (k + 1) s = .next t) :
    ∃ u, octetStep s = .next u ∧
      ((u.st.inside = true ∧ finishAttempt k u = .next t) ∨ (u.st.inside = false ∧ t = u)) := by
  rw [finishAttempt_succ] at h
  cases ho : octetStep s with
  | next u =>
    cases hin : u.st.inside with
    | true => exact ⟨u, rfl, .inl ⟨hin, by simpa [ho, hin] using h⟩⟩
    | false => exact ⟨u, rfl, .inr ⟨hin, by simpa [ho, hin] using h.symm⟩⟩
  | fault r => simp [ho] at h
  | refused r => simp [ho] at h

/-- An attempt given as many small steps as it can need ends outside an instruction with exactly one event. -/
theorem finishAttempt_one_event {k : Nat} {s t : State} (h0 : 0 < s.st.octetsLeft) (hk : s.st.octetsLeft ≤ k)
    (h : finishAttempt k s = .next t) : t.st.inside = false ∧ ∃ e, t.trace = s.trace ++ [e] := by
  induction k generalizing s with
  | zero => omega
  | succ k ih =>
    obtain ⟨u, hu, ⟨hin, hrest⟩ | ⟨hout, rfl⟩⟩ := finishAttempt_succ_cases h
    · have htr : u.trace = s.trace := by simpa [hin] using octetStep_trace hu
      have hlt := octetStep_octetsLeft hu hin
      rw [← htr]
      exact ih (SeqState.octetsLeft_pos hin) (by omega) hrest
    · simpa [hout] using octetStep_trace hu

/-- `k` small steps move the cursor by at most `k` octets. -/
theorem finishAttempt_pos {k : Nat} {s t : State} (h : finishAttempt k s = .next t) :
    s.pos ≤ t.pos ∧ t.pos ≤ s.pos + k := by
  induction k generalizing s with
  | zero =>
    obtain rfl := Host.Outcome.next.inj h
    omega
  | succ k ih =>
    obtain ⟨u, hu, ⟨-, hrest⟩ | ⟨-, rfl⟩⟩ := finishAttempt_succ_cases h
    · have hfirst := octetStep_pos hu
      have hlater := ih hrest
      omega
    · have hfirst := octetStep_pos hu
      omega

theorem SeqState.octetsLeft_pos_of_not_terminal {q : SeqState} (h : q.terminal = false) : 0 < q.octetsLeft := by
  revert h
  cases q <;> decide

theorem SeqState.octetsLeft_le_four (q : SeqState) : q.octetsLeft ≤ 4 := by
  cases q <;> decide

theorem step_not_terminal {s t : State} (h : step s = .next t) : s.st.terminal = false := by
  obtain ⟨hs, -⟩ | ⟨hin, -⟩ := step_cases h
  · rw [hs]
    rfl
  · exact SeqState.not_terminal_of_inside hin

/-- A big step that answers a next state is an attempt of at most four small steps. -/
theorem finishAttempt_of_step {s t : State} (h : step s = .next t) : finishAttempt 4 s = .next t :=
  bigStepIsTheOctetSteps s ▸ h

/-- Settles O41: four small steps are as many as an attempt can need; each moves the cursor by at most one octet, and
only the one that ends the attempt emits. -/
theorem attemptEmitsOneEvent : Obligations.AttemptEmitsOneEvent := by
  unfold Obligations.AttemptEmitsOneEvent
  intro s t h
  have hfin := finishAttempt_of_step h
  obtain ⟨hout, hevent⟩ := finishAttempt_one_event
    (SeqState.octetsLeft_pos_of_not_terminal (step_not_terminal h)) s.st.octetsLeft_le_four hfin
  exact ⟨hevent, hout, finishAttempt_pos hfin⟩

end Sys2Proof.Machine
end

section
/-! The machine's invariant, part by part (10_state.md R21 to R32): the byte source, the latches, and the record that the
trace and the sticky flags keep. A small step asks the source only while it has not ended, so before the step the trace
holds no final event and the decoder has not halted. -/

namespace Sys2Proof.Machine

/-! ## The byte source -/

theorem sourceInv_of_byte {s t : State} {b : Byte} (h : SourceInv s) (he : s.source.ended = false)
    (ho : s.source.octet s.pos = some b) (hsrc : t.source = s.source) (hpos : t.pos = s.pos + 1) : SourceInv t := by
  obtain ⟨hwf, -, -⟩ := h
  rw [SourceInv, hsrc, hpos]
  refine ⟨hwf, fun l hl => ?_, by simp [he]⟩
  exact (ByteSource.octet_isSome hl).1 ⟨b, ho⟩

theorem sourceInv_of_eos {s t : State} (h : SourceInv s) (ho : s.source.octet s.pos = none)
    (hsrc : t.source = { s.source with ended := true }) (hpos : t.pos = s.pos) : SourceInv t := by
  obtain ⟨hwf, hle, -⟩ := h
  obtain ⟨l, hl, hpast⟩ := ByteSource.octet_eq_none.1 ho
  have hend : l = s.pos := Nat.le_antisymm hpast (hle l hl)
  rw [SourceInv, hsrc, hpos]
  exact ⟨hwf, hle, fun _ => hend ▸ hl⟩

/-! ## The latches -/

theorem latchInv_of_not_inside {s : State} (h : s.st.inside = false) : LatchInv s := by
  cases hs : s.st <;> simp_all [LatchInv, SeqState.inside]

/-- Each arm that goes on inside the instruction latches the octet just consumed, and the test it passed is what the
next state's part of the invariant says. -/
theorem latchInv_takeByte {s : State} {b : Byte} (h : LatchInv s) (ho : s.source.octet s.pos = some b) :
    LatchInv (takeByte b (s.advance 1)) := by
  cases hs : s.st with
  | fetch => cases hc : classify s.cfg b <;> simp [takeByte, LatchInv, hs, hc, ho]
  | mode =>
    simp only [LatchInv, hs] at h
    by_cases hn : ndisp (modField b) (rmField b) = 0 <;> simp [takeByte, LatchInv, hs, hn, ho, h]
  | dispLo =>
    simp only [LatchInv, hs] at h
    obtain ⟨hpos, hopc, hmodb, hc, hn0⟩ := h
    obtain hn | hn := (ndisp_cases _ _).resolve_left hn0 <;>
      simp [takeByte, LatchInv, hs, hn, ho, hpos, hopc, hmodb, hc]
  | dispHi => simp [takeByte, LatchInv, hs]
  | immLo =>
    simp only [LatchInv, hs] at h
    cases hw : immW s.opc <;> simp [takeByte, LatchInv, hs, hw, ho, h]
  | immHi => simp [takeByte, LatchInv, hs]
  | haltEnd => simp [takeByte, LatchInv, hs]
  | haltFault => simp [takeByte, LatchInv, hs]

/-- What the latches' invariant says of an immediate's opcode byte in `IMM_HI`. -/
theorem LatchInv.immW {s : State} (h : LatchInv s) (hs : s.st = .immHi) : immW s.opc = true := by
  simp only [LatchInv, hs] at h
  obtain ⟨-, -, -, -, hw⟩ := h
  exact hw

/-! ## The trace, the flags and the events -/

/-- While the source has not ended, the trace's invariant says that nothing has ended: no final event, no halt. -/
theorem traceInv_iff_of_not_ended {s : State} (he : s.source.ended = false) :
    TraceInv s ↔ s.st.terminal = false ∧ ∀ e ∈ s.trace, e.isFinal = false := by
  constructor
  · rintro ⟨hinit, hended, hend, hfault, -⟩
    have hlast : ∀ e, s.trace.getLast? = some e → e.isFinal = false := by simpa [he] using hended
    refine ⟨?_, fun e hmem => ?_⟩
    · cases hs : s.st with
      | haltEnd => simpa [Event.isFinal] using hlast _ (hend hs)
      | haltFault => simpa [Event.isFinal] using hlast _ (hfault hs)
      | _ => rfl
    · have hne : s.trace ≠ [] := List.ne_nil_of_mem hmem
      rw [← List.dropLast_append_getLast hne, List.mem_append, List.mem_singleton] at hmem
      obtain hmem | rfl := hmem
      · exact hinit e hmem
      · exact hlast _ (List.getLast?_eq_some_getLast hne)
  · rintro ⟨hst, hopen⟩
    refine ⟨fun e hmem => hopen e (List.mem_of_mem_dropLast hmem), ?_, ?_, ?_, by simp [he]⟩
    · simpa [he] using fun e hlast => hopen e (List.mem_of_getLast? hlast)
    · intro hs
      simp [hs, SeqState.terminal] at hst
    · intro hs
      simp [hs, SeqState.terminal] at hst

theorem traceInv_topLevelEnd {s : State} (hopen : ∀ e ∈ s.trace, e.isFinal = false) :
    TraceInv (topLevelEnd s.markEnded) := by
  simpa [TraceInv, Event.isFinal, SeqState.terminal] using hopen

/-- Under either policy: the halt, or the return to `FETCH` (92_eei_decisions.md D6). -/
theorem traceInv_raiseEos {s : State} (hopen : ∀ e ∈ s.trace, e.isFinal = false) :
    TraceInv (raiseEos s.markEnded) := by
  cases hp : s.cfg.eosPolicy <;>
    simpa [TraceInv, Event.isFinal, SeqState.terminal, eosTarget, hp] using hopen

/-- The flags stay the record of the trace when they are set exactly for the errors among the new events. -/
theorem flagInv_of_append {s t : State} {es : List Event} (h : FlagInv s) (htr : t.trace = s.trace ++ es)
    (hu : t.unsupSeen = true ↔ s.unsupSeen = true ∨ ∃ b, .errUnsupported b ∈ es)
    (hf : t.eosFault = true ↔ s.eosFault = true ∨ .errEos ∈ es) : FlagInv t := by
  obtain ⟨hsu, hsf⟩ := h
  refine ⟨?_, ?_⟩
  · rw [hu, hsu, htr]
    simp [exists_or]
  · rw [hf, hsf, htr]
    simp

theorem eventInv_of_append {s t : State} {es : List Event} (h : EventInv s) (htr : t.trace = s.trace ++ es)
    (hcfg : t.cfg = s.cfg) (hes : ∀ e ∈ es, e.Producible s.cfg) : EventInv t := by
  rw [EventInv, htr, hcfg]
  exact List.forall_mem_append.2 ⟨h, hes⟩

/-! ## The small step, and so every step -/

theorem inv_takeByte {s : State} {b : Byte} (h : Inv s) (ht : s.st.terminal = false) (he : s.source.ended = false)
    (ho : s.source.octet s.pos = some b) : Inv (takeByte b (s.advance 1)) := by
  obtain ⟨hsource, hlatch, htrace, hflag, hevent⟩ := h
  obtain ⟨-, hopen⟩ := (traceInv_iff_of_not_ended he).1 htrace
  refine ⟨sourceInv_of_byte hsource he ho (by simp) (by simp), latchInv_takeByte hlatch ho, ?_⟩
  obtain ⟨hin, htr, hu⟩ | ⟨hst, hu, i, htr, hi⟩ | ⟨hc, hr⟩ := takeByte_cases b (s := s.advance 1) ht
  · have htr' : (takeByte b (s.advance 1)).trace = s.trace ++ [] := by simp [htr]
    refine ⟨(traceInv_iff_of_not_ended (by simpa)).2 ⟨SeqState.not_terminal_of_inside hin, by simpa [htr]⟩, ?_, ?_⟩
    · exact flagInv_of_append hflag htr' (by simp [hu]) (by simp)
    · exact eventInv_of_append hevent htr' (by simp) (by simp)
  · have hprod : i.Producible := hi hlatch.immW
    refine ⟨(traceInv_iff_of_not_ended (by simpa)).2 ⟨by rw [hst]; rfl, ?_⟩, ?_, ?_⟩
    · rw [htr]
      exact List.forall_mem_append.2 ⟨hopen, by simp [Event.isFinal]⟩
    · exact flagInv_of_append hflag htr (by simp [hu]) (by simp)
    · exact eventInv_of_append hevent htr (by simp) (by simpa [Event.Producible] using hprod)
  · rw [hr]
    refine ⟨(traceInv_iff_of_not_ended (by simpa)).2 ⟨rfl, ?_⟩, ?_, ?_⟩
    · exact List.forall_mem_append.2 ⟨hopen, by simp [Event.isFinal]⟩
    · exact flagInv_of_append hflag (es := [.errUnsupported b]) rfl (by simp) (by simp)
    · exact eventInv_of_append hevent (es := [.errUnsupported b]) rfl rfl (by simpa [Event.Producible] using hc)

theorem inv_takeEos {s : State} (h : Inv s) (ht : s.st.terminal = false) (he : s.source.ended = false)
    (ho : s.source.octet s.pos = none) : Inv (takeEos s.markEnded) := by
  obtain ⟨hsource, -, htrace, hflag, hevent⟩ := h
  obtain ⟨-, hopen⟩ := (traceInv_iff_of_not_ended he).1 htrace
  refine ⟨sourceInv_of_eos hsource ho (by simp) (by simp), latchInv_of_not_inside (takeEos_not_inside _), ?_⟩
  obtain hr | hr := takeEos_cases (s := s.markEnded) ht
  · rw [hr]
    refine ⟨traceInv_topLevelEnd hopen, ?_, ?_⟩
    · exact flagInv_of_append hflag (es := [.endOfRun]) rfl (by simp) (by simp)
    · exact eventInv_of_append hevent (es := [.endOfRun]) rfl rfl (by simp [Event.Producible])
  · rw [hr]
    refine ⟨traceInv_raiseEos hopen, ?_, ?_⟩
    · exact flagInv_of_append hflag (es := [.errEos]) rfl (by simp) (by simp)
    · exact eventInv_of_append hevent (es := [.errEos]) rfl rfl (by simp [Event.Producible])

theorem octetStep_keeps_inv {s t : State} (h : Inv s) (hstep : octetStep s = .next t) : Inv t := by
  obtain ⟨ht, he, ⟨b, ho, rfl⟩ | ⟨ho, rfl⟩⟩ := octetStep_cases hstep
  · exact inv_takeByte h ht he ho
  · exact inv_takeEos h ht he ho

/-- Settles O49: an octet keeps each part of the invariant by what R140's arm for it does, and so does `EOS`. -/
theorem octetStepKeepsInvariant : Obligations.OctetStepKeepsInvariant := by
  unfold Obligations.OctetStepKeepsInvariant
  exact fun _ _ h hstep => octetStep_keeps_inv h hstep

/-- Settles O48: a step is the small steps of its attempt, and each of them keeps the invariant. -/
theorem stepKeepsInvariant : Obligations.StepKeepsInvariant := by
  unfold Obligations.StepKeepsInvariant
  intro s t h hstep
  exact finishAttempt_keeps (fun _ _ hsmall hinv => octetStep_keeps_inv hinv hsmall) 4 s t
    (finishAttempt_of_step hstep) h

/-! ## Reset (10_state.md R38; 70_reset_and_hazards.md R260) -/

theorem inv_start (c : Config) {src : ByteSource} (hwf : src.wf = true) (he : src.ended = false) :
    Inv (State.start c src) := by
  refine ⟨⟨hwf, fun _ _ => Nat.zero_le _, ?_⟩, latchInv_of_not_inside rfl, ?_, ?_, ?_⟩
  · simp [State.start, he]
  · exact (traceInv_iff_of_not_ended he).2 ⟨rfl, by simp [State.start]⟩
  · simp [FlagInv, State.start]
  · simp [EventInv, State.start]

/-- Settles O50: before the first request the trace is empty, no flag is set and the decoder is outside an
instruction, so only the byte source's canonical form is left to ask for. -/
theorem resetMeetsInvariant : Obligations.ResetMeetsInvariant := by
  unfold Obligations.ResetMeetsInvariant
  exact ⟨inv_start Config.default ByteSource.wf_empty rfl, fun c _ hwf he => inv_start c hwf he⟩

/-- Settles O55: each field has the value that R38 states, and each sequencing state R23's code. -/
theorem stateAfterReset : Obligations.StateAfterReset := by
  unfold Obligations.StateAfterReset
  exact ⟨fun _ _ => ⟨rfl, rfl, rfl, rfl, rfl, rfl, rfl⟩, rfl, rfl⟩

end Sys2Proof.Machine
end

section
/-! From `FETCH` the latches cannot be observed (10_state.md R22). A step from `FETCH` writes the same to everything but the
latches whatever they hold, and ends outside an instruction, so the next step starts from `FETCH` again. -/

namespace Sys2Proof.Machine

/-! ## Runs, a step at a time -/

theorem run_succ_of_step {k : Nat} {s u : State} (h : step s = .next u) : core.run (k + 1) s = core.run k u := by
  have hcore : core.step s = .next u := h
  simp [Host.Core.run, hcore]

theorem run_succ_cases {k : Nat} {s t : State} (h : core.run (k + 1) s = .next t) :
    ∃ u, step s = .next u ∧ core.run k u = .next t := by
  cases hstep : step s with
  | next u => exact ⟨u, rfl, run_succ_of_step hstep ▸ h⟩
  | fault r =>
    have hcore : core.step s = .fault r := hstep
    simp [Host.Core.run, hcore] at h
  | refused r =>
    have hcore : core.step s = .refused r := hstep
    simp [Host.Core.run, hcore] at h

/-! ## The view: everything but the latches -/

@[simp] theorem State.view_withLatches (s : State) (o m l : Byte) : (s.withLatches o m l).view = s.view := rfl
@[simp] theorem State.view_latchOpc (s : State) (b : Byte) : (s.latchOpc b).view = s.view := rfl
@[simp] theorem State.view_latchModb (s : State) (b : Byte) : (s.latchModb b).view = s.view := rfl
@[simp] theorem State.view_latchLo (s : State) (b : Byte) : (s.latchLo b).view = s.view := rfl

/-- States with the same view differ in their latches only. -/
theorem State.eq_withLatches_of_view {s s' : State} (h : s'.view = s.view) :
    s' = s.withLatches s'.opc s'.modb s'.lo := by
  cases s
  cases s'
  simp_all [State.view, State.withLatches]

/-- Every meaning does the same to the view, whatever the latches hold. -/
theorem exec_withLatches (i : Instr) (s : State) (o m l : Byte) :
    ∃ t t', exec i s = .next t ∧ exec i (s.withLatches o m l) = .next t' ∧ t'.view = t.view := by
  cases i <;> exact ⟨_, _, rfl, rfl, rfl⟩

theorem latchPartial_view (got : List Byte) (s : State) : (latchPartial got s).view = s.view := by
  unfold latchPartial
  repeat' split
  all_goals simp

theorem attemptTruncated_view (got : List Byte) (s : State) :
    (attemptTruncated got s).view = (raiseEos (s.advance got.length).markEnded).view := by
  have h := State.eq_withLatches_of_view (latchPartial_view got s)
  rw [attemptTruncated, h]
  rfl

theorem step_withLatches {s t : State} (o m l : Byte) (hs : s.st = .fetch) (h : step s = .next t) :
    ∃ t', step (s.withLatches o m l) = .next t' ∧ t'.view = t.view := by
  obtain ⟨-, he, ⟨i, rest, hd, hexec⟩ | ⟨hd, rfl⟩ | ⟨hd, rfl⟩⟩ | ⟨hin, -⟩ := step_cases h
  · obtain ⟨u, t', hu, ht', hview⟩ := exec_withLatches i s o m l
    obtain rfl : u = t := Host.Outcome.next.inj (hu.symm.trans hexec)
    exact ⟨t', (step_of_decode_ok (s := s.withLatches o m l) hs he hd).trans ht', hview⟩
  · exact ⟨_, step_of_decode_endOfStream (s := s.withLatches o m l) hs he hd, rfl⟩
  · refine ⟨_, step_of_decode_truncated (s := s.withLatches o m l) hs he rfl hd, ?_⟩
    rw [attemptTruncated_view, attemptTruncated_view]
    rfl
  · rw [hs] at hin
    cases hin

/-- A run from outside an instruction: a terminal state has no step, and from `FETCH` each step ends outside again. -/
theorem run_withLatches {k : Nat} {s t : State} (o m l : Byte) (hout : s.st.inside = false)
    (h : core.run k s = .next t) : ∃ t', core.run k (s.withLatches o m l) = .next t' ∧ t'.view = t.view := by
  induction k generalizing s o m l with
  | zero =>
    obtain rfl := Host.Outcome.next.inj h
    exact ⟨_, rfl, rfl⟩
  | succ k ih =>
    obtain ⟨u, hu, hrest⟩ := run_succ_cases h
    obtain ⟨-, huout, -⟩ := attemptEmitsOneEvent s u hu
    have hs := SeqState.eq_fetch_of_not_inside (step_not_terminal hu) hout
    obtain ⟨u', hu', hview⟩ := step_withLatches o m l hs hu
    obtain ⟨t', ht', htview⟩ := ih u'.opc u'.modb u'.lo huout hrest
    rw [← State.eq_withLatches_of_view hview] at ht'
    exact ⟨t', (run_succ_of_step hu').trans ht', htview⟩

/-- Settles O52, by induction on the number of steps: from `FETCH` a step reads no latch before it has written it. -/
theorem latchesAreUnobservable : Obligations.LatchesAreUnobservable := by
  unfold Obligations.LatchesAreUnobservable
  intro k s t o m l hs h
  exact run_withLatches o m l (by rw [hs]; rfl) h

end Sys2Proof.Machine
end

section
/-! The instructions the decoder produces (10_state.md R28 to R32): each supported row emits one of them, each of them has
a row that emits it, and the port form of each reads back. -/

namespace Sys2Proof.Machine

/-! ## Register codes and values read backwards -/

/-- A ROM address is a register code and a size (40_register_rom.md R112). -/
theorem regIdx_of_bits (n : RegIdx) : regIdx (n.extractLsb' 0 3) n.msb = n := by
  revert n
  decide

/-- A producible displacement is what is shown of a 2-octet one, with zero standing for none (42_mov_rm_reg.md R159). -/
theorem shown_getD {disp : Option Word16} (h : disp ≠ some 0#16) : shown (some (disp.getD 0#16)) = disp := by
  cases disp with
  | none => rfl
  | some v =>
    have hv : v ≠ 0#16 := fun hv => h (congrArg some hv)
    simp [shown, hv]

/-- A value below 256 is its low octet, extended. -/
theorem zext16_lowOctet {v : Word16} (h : v.toNat < 256) : zext16 (lowOctet v) = v := by
  apply BitVec.eq_of_toNat_eq
  rw [toNat_zext16, toNat_lowOctet, Nat.mod_eq_of_lt h]

/-! ## The event of each supported row (42_mov_rm_reg.md R170 to R179; 43_mov_reg_imm.md R200, R201) -/

@[simp] theorem eventOf_movRmRegDirect (w : Bool) (reg rm : Code3) :
    eventOf (.movRmRegDirect w reg rm) = some (.instr ⟨.mov, .reg (regIdx rm w), .reg (regIdx reg w)⟩) := rfl

@[simp] theorem eventOf_movRegRmDirect (w : Bool) (reg rm : Code3) :
    eventOf (.movRegRmDirect w reg rm) = some (.instr ⟨.mov, .reg (regIdx reg w), .reg (regIdx rm w)⟩) := rfl

@[simp] theorem eventOf_movRmRegAddr (w : Bool) (reg : Code3) (addr : Word16) :
    eventOf (.movRmRegAddr w reg addr) = some (.instr ⟨.mov, .mem [] (shown (some addr)), .reg (regIdx reg w)⟩) := rfl

@[simp] theorem eventOf_movRegRmAddr (w : Bool) (reg : Code3) (addr : Word16) :
    eventOf (.movRegRmAddr w reg addr) = some (.instr ⟨.mov, .reg (regIdx reg w), .mem [] (shown (some addr))⟩) := rfl

@[simp] theorem eventOf_movRmRegMem (w : Bool) (reg rm : Code3) :
    eventOf (.movRmRegMem w reg rm) = some (.instr ⟨.mov, .mem (bases rm) none, .reg (regIdx reg w)⟩) := rfl

@[simp] theorem eventOf_movRegRmMem (w : Bool) (reg rm : Code3) :
    eventOf (.movRegRmMem w reg rm) = some (.instr ⟨.mov, .reg (regIdx reg w), .mem (bases rm) none⟩) := rfl

@[simp] theorem eventOf_movRmRegDisp8 (w : Bool) (reg rm : Code3) (d8 : Byte) :
    eventOf (.movRmRegDisp8 w reg rm d8) =
      some (.instr ⟨.mov, .mem (bases rm) (shown (some (zext16 d8))), .reg (regIdx reg w)⟩) := rfl

@[simp] theorem eventOf_movRegRmDisp8 (w : Bool) (reg rm : Code3) (d8 : Byte) :
    eventOf (.movRegRmDisp8 w reg rm d8) =
      some (.instr ⟨.mov, .reg (regIdx reg w), .mem (bases rm) (shown (some (zext16 d8)))⟩) := rfl

@[simp] theorem eventOf_movRmRegDisp16 (w : Bool) (reg rm : Code3) (d16 : Word16) :
    eventOf (.movRmRegDisp16 w reg rm d16) =
      some (.instr ⟨.mov, .mem (bases rm) (shown (some d16)), .reg (regIdx reg w)⟩) := rfl

@[simp] theorem eventOf_movRegRmDisp16 (w : Bool) (reg rm : Code3) (d16 : Word16) :
    eventOf (.movRegRmDisp16 w reg rm d16) =
      some (.instr ⟨.mov, .reg (regIdx reg w), .mem (bases rm) (shown (some d16))⟩) := rfl

@[simp] theorem eventOf_movRegImm8 (reg : Code3) (data : Byte) :
    eventOf (.movRegImm8 reg data) = some (.instr ⟨.mov, .reg (regIdx reg false), .imm (zext16 data)⟩) := rfl

@[simp] theorem eventOf_movRegImm16 (reg : Code3) (data : Word16) :
    eventOf (.movRegImm16 reg data) = some (.instr ⟨.mov, .reg (regIdx reg true), .imm data⟩) := rfl

/-! ## Every supported row emits a producible instruction -/

theorem eventOf_producible {i : Instr} (h : i.isSupported = true) :
    ∃ j : Instruction, eventOf i = some (.instr j) ∧ j.Producible := by
  cases i with
  | movRmRegDirect w reg rm => exact ⟨_, rfl, (msb_regIdx rm w).trans (msb_regIdx reg w).symm⟩
  | movRegRmDirect w reg rm => exact ⟨_, rfl, (msb_regIdx reg w).trans (msb_regIdx rm w).symm⟩
  | movRmRegAddr w reg addr => exact ⟨_, rfl, memProducible_nil _⟩
  | movRegRmAddr w reg addr => exact ⟨_, rfl, memProducible_nil _⟩
  | movRmRegMem w reg rm => exact ⟨_, rfl, memProducible_bases rm none⟩
  | movRegRmMem w reg rm => exact ⟨_, rfl, memProducible_bases rm none⟩
  | movRmRegDisp8 w reg rm d8 => exact ⟨_, rfl, memProducible_bases rm _⟩
  | movRegRmDisp8 w reg rm d8 => exact ⟨_, rfl, memProducible_bases rm _⟩
  | movRmRegDisp16 w reg rm d16 => exact ⟨_, rfl, memProducible_bases rm _⟩
  | movRegRmDisp16 w reg rm d16 => exact ⟨_, rfl, memProducible_bases rm _⟩
  | movRegImm8 reg data => exact ⟨_, rfl, fun _ => by simpa using data.isLt⟩
  | movRegImm16 reg data => exact ⟨_, rfl, fun hw => by simp at hw⟩
  | unsupported b => cases h

/-! ## Every producible instruction has a row -/

/-- `j` is emitted by a supported instruction that has an encoding under `c`. -/
def Instruction.EmittedUnder (c : Config) (j : Instruction) : Prop :=
  ∃ i : Instr, i.WellFormed c = true ∧ i.isSupported = true ∧ eventOf i = some (.instr j)

theorem emitted_reg_reg (c : Config) {a b : RegIdx} (h : a.msb = b.msb) :
    Instruction.EmittedUnder c ⟨.mov, .reg a, .reg b⟩ := by
  refine ⟨.movRmRegDirect a.msb (b.extractLsb' 0 3) (a.extractLsb' 0 3), rfl, rfl, ?_⟩
  rw [eventOf_movRmRegDirect, regIdx_of_bits, h, regIdx_of_bits]

/-- No base is a direct address; a base list is a row with a 2-octet displacement, which a zero leaves unshown. -/
theorem emitted_reg_mem (c : Config) (a : RegIdx) {bs : List RegIdx} {disp : Option Word16}
    (h : MemProducible bs disp) : Instruction.EmittedUnder c ⟨.mov, .reg a, .mem bs disp⟩ := by
  obtain ⟨rfl | ⟨rm, rfl⟩, hd⟩ := h
  · refine ⟨.movRegRmAddr a.msb (a.extractLsb' 0 3) (disp.getD 0#16), rfl, rfl, ?_⟩
    rw [eventOf_movRegRmAddr, regIdx_of_bits, shown_getD hd]
  · refine ⟨.movRegRmDisp16 a.msb (a.extractLsb' 0 3) rm (disp.getD 0#16), rfl, rfl, ?_⟩
    rw [eventOf_movRegRmDisp16, regIdx_of_bits, shown_getD hd]

theorem emitted_mem_reg (c : Config) (a : RegIdx) {bs : List RegIdx} {disp : Option Word16}
    (h : MemProducible bs disp) : Instruction.EmittedUnder c ⟨.mov, .mem bs disp, .reg a⟩ := by
  obtain ⟨rfl | ⟨rm, rfl⟩, hd⟩ := h
  · refine ⟨.movRmRegAddr a.msb (a.extractLsb' 0 3) (disp.getD 0#16), rfl, rfl, ?_⟩
    rw [eventOf_movRmRegAddr, regIdx_of_bits, shown_getD hd]
  · refine ⟨.movRmRegDisp16 a.msb (a.extractLsb' 0 3) rm (disp.getD 0#16), rfl, rfl, ?_⟩
    rw [eventOf_movRmRegDisp16, regIdx_of_bits, shown_getD hd]

/-- The immediate's row by the register's size; only here must the two formats' opcode bytes be disjoint. -/
theorem emitted_reg_imm {c : Config} (hc : c.Disjoint) {a : RegIdx} {v : Word16} (h : a.msb = false → v.toNat < 256) :
    Instruction.EmittedUnder c ⟨.mov, .reg a, .imm v⟩ := by
  have ha := regIdx_of_bits a
  have hfree (w : Bool) : (immOpcode c w (a.extractLsb' 0 3)).extractLsb' 2 6 ≠ c.opcRr6 :=
    hc.not_rm (immOpcode_bits c w _)
  cases hw : a.msb with
  | false =>
    rw [hw] at ha
    refine ⟨.movRegImm8 (a.extractLsb' 0 3) (lowOctet v), decide_eq_true (hfree false), rfl, ?_⟩
    rw [eventOf_movRegImm8, ha, zext16_lowOctet (h hw)]
  | true =>
    rw [hw] at ha
    refine ⟨.movRegImm16 (a.extractLsb' 0 3) v, decide_eq_true (hfree true), rfl, ?_⟩
    rw [eventOf_movRegImm16, ha]

/-- Settles O17: row by row in one direction, shape by shape of R30 in the other. -/
theorem producibleInstructionsExactly : Obligations.ProducibleInstructionsExactly := by
  unfold Obligations.ProducibleInstructionsExactly
  refine ⟨fun _ h => eventOf_producible h, fun c j hc hj => ?_⟩
  match j, hj with
  | ⟨.mov, .reg _, .reg _⟩, h => exact emitted_reg_reg c h
  | ⟨.mov, .reg a, .mem _ _⟩, h => exact emitted_reg_mem c a h
  | ⟨.mov, .mem _ _, .reg a⟩, h => exact emitted_mem_reg c a h
  | ⟨.mov, .reg _, .imm _⟩, h => exact emitted_reg_imm hc h

/-! ## The result port (R31, R40) -/

/-- An operand of a producible instruction: any register or value, and a memory operand of the table. -/
def Operand.Producible : Operand → Prop
  | .reg _ => True
  | .imm _ => True
  | .mem bs disp => MemProducible bs disp

theorem Instruction.Producible.operands {i : Instruction} (h : i.Producible) :
    i.op1.Producible ∧ i.op2.Producible := by
  match i, h with
  | ⟨.mov, .reg _, .reg _⟩, _ => exact ⟨trivial, trivial⟩
  | ⟨.mov, .reg _, .mem _ _⟩, h => exact ⟨trivial, h⟩
  | ⟨.mov, .mem _ _, .reg _⟩, h => exact ⟨h, trivial⟩
  | ⟨.mov, .reg _, .imm _⟩, _ => exact ⟨trivial, trivial⟩

/-- A base list of the table has one or two entries (42_mov_rm_reg.md R158). -/
theorem bases_cases (rm : Code3) : (∃ x, bases rm = [x]) ∨ ∃ x y, bases rm = [x, y] := by
  unfold bases
  repeat' split
  all_goals simp

/-- The displacement's two fields, and with at most two bases the count and the base fields, read back. -/
theorem read_toPort {op : Operand} (h : op.Producible) : op.toPort.read = some op := by
  cases op with
  | reg n => rfl
  | imm v => rfl
  | mem bs disp =>
    obtain ⟨rfl | ⟨rm, rfl⟩, -⟩ := h
    · cases disp <;> rfl
    · obtain ⟨x, hb⟩ | ⟨x, y, hb⟩ := bases_cases rm
      · rw [hb]
        cases disp <;> rfl
      · rw [hb]
        cases disp <;> rfl

theorem tag_toPort_ne_reserved (op : Operand) : op.toPort.tag ≠ 3#2 := by
  cases op <;> simp [Operand.toPort, PortOperand.tag]

theorem width_toPort_le (op : Operand) : op.toPort.width ≤ 29 := by
  cases op <;> simp [Operand.toPort, PortOperand.width]

/-- Settles O60: each operand of a producible instruction reads back, and the codes are as the port defines them. -/
theorem portFormReadsBack : Obligations.PortFormReadsBack := by
  unfold Obligations.PortFormReadsBack
  refine ⟨fun i hi => ?_, rfl, rfl, fun _ _ => ⟨rfl, rfl, rfl, rfl, rfl⟩⟩
  obtain ⟨h1, h2⟩ := hi.operands
  exact ⟨read_toPort h1, read_toPort h2, tag_toPort_ne_reserved _, tag_toPort_ne_reserved _, width_toPort_le _,
    width_toPort_le _⟩

end Sys2Proof.Machine
end

section
/-! The byte source over an attempt and over a run (20_memory.md): what its contract says of each octet, that no step
writes it, that only the octets an attempt consumes decide the attempt, and how a run on a finite or an endless stream
ends. The facts about the big step are got from the small steps it is made of. -/

namespace Sys2Proof.Machine

/-! ## The contract of `NextOctet()` (R50) -/

/-- Settles O37: the two answers of `NextOctet()`, and the octet numbers that exist by the stream's length. -/
theorem nextOctetContract : Obligations.NextOctetContract := by
  unfold Obligations.NextOctetContract
  intro s
  refine ⟨fun b hb => nextOctet_of_some hb, fun hnone => nextOctet_of_none hnone, fun l n hl => ?_, fun hl n => ?_⟩
  · simp [ByteSource.octet_eq_none, hl]
  · simp [ByteSource.octet_eq_none, hl]

/-! ## No step writes the stream, and no sticky flag is cleared (R57, R63; 10_state.md R24) -/

/-- `t` has the parameters of `s`, its byte source but for the mark `ended`, and every sticky flag that `s` has. -/
def State.KeepsStreamAndFlags (s t : State) : Prop :=
  t.cfg = s.cfg ∧ t.source = { s.source with ended := t.source.ended } ∧
    (s.unsupSeen = true → t.unsupSeen = true) ∧ (s.eosFault = true → t.eosFault = true)

theorem State.KeepsStreamAndFlags.refl (s : State) : s.KeepsStreamAndFlags s := ⟨rfl, rfl, id, id⟩

theorem State.KeepsStreamAndFlags.trans {s t u : State} (h : s.KeepsStreamAndFlags t) (h' : t.KeepsStreamAndFlags u) :
    s.KeepsStreamAndFlags u := by
  obtain ⟨hcfg, hsrc, hunsup, heos⟩ := h
  obtain ⟨hcfg', hsrc', hunsup', heos'⟩ := h'
  exact ⟨hcfg'.trans hcfg, by rw [hsrc', hsrc], hunsup' ∘ hunsup, heos' ∘ heos⟩

theorem takeByte_unsupSeen_of_set (b : Byte) {s : State} (ht : s.st.terminal = false) (h : s.unsupSeen = true) :
    (takeByte b s).unsupSeen = true := by
  obtain ⟨-, -, hu⟩ | ⟨-, hu, -⟩ | ⟨-, hr⟩ := takeByte_cases b ht
  · rw [hu, h]
  · rw [hu, h]
  · rw [hr, raiseUnsupported_unsupSeen]

theorem takeEos_eosFault_of_set {s : State} (ht : s.st.terminal = false) (h : s.eosFault = true) :
    (takeEos s).eosFault = true := by
  obtain hr | hr := takeEos_cases ht
  · rw [hr, topLevelEnd_eosFault, h]
  · rw [hr, raiseEos_eosFault]

/-- A small step leaves the byte source as it is, or marks it as having answered `EOS`. -/
theorem octetStep_keeps_stream_and_flags {s t : State} (h : octetStep s = .next t) : s.KeepsStreamAndFlags t := by
  obtain ⟨ht, -, ⟨b, -, rfl⟩ | ⟨-, rfl⟩⟩ := octetStep_cases h
  · exact ⟨by simp, by simp, takeByte_unsupSeen_of_set b (s := s.advance 1) ht, by simp⟩
  · exact ⟨by simp, by simp, by simp, takeEos_eosFault_of_set (s := s.markEnded) ht⟩

theorem step_keeps_stream_and_flags {s t : State} (h : step s = .next t) : s.KeepsStreamAndFlags t :=
  finishAttempt_keeps (P := s.KeepsStreamAndFlags)
    (fun _ _ hsmall hs => hs.trans (octetStep_keeps_stream_and_flags hsmall)) 4 s t (finishAttempt_of_step h) (.refl s)

/-- Settles O51: each small step of the attempt keeps the stream and the flags, so the attempt does. -/
theorem stepWritesNoMemory : Obligations.StepWritesNoMemory := by
  unfold Obligations.StepWritesNoMemory
  intro s t h
  obtain ⟨hcfg, hsrc, hunsup, heos⟩ := step_keeps_stream_and_flags h
  exact ⟨hcfg, by rw [hsrc], by rw [hsrc], fun n => by rw [hsrc, ByteSource.octet_ended], hunsup, heos⟩

/-! ## Only the octets consumed decide an attempt (R56, R63; 70_reset_and_hazards.md R267) -/

/-- `s` with the byte source `src` in place of its own and the cursor at `p`. -/
def State.onSource (s : State) (src : ByteSource) (p : Nat) : State := { s with source := src, pos := p }

/-- An arm of R140 sees the octet answered, not the byte source nor the cursor. -/
theorem takeByte_onSource (b : Byte) (s : State) (src : ByteSource) (p : Nat) :
    takeByte b (s.onSource src p) = (takeByte b s).onSource src p := by
  obtain ⟨cfg, st, opc, modb, lo, unsupSeen, eosFault, pos, trace, source⟩ := s
  unfold takeByte
  cases st with
  | fetch => cases hc : classify cfg b <;> simp [State.onSource, hc] <;> rfl
  | mode => by_cases hn : ndisp (modField b) (rmField b) = 0 <;> simp [State.onSource, hn] <;> rfl
  | dispLo => by_cases hn : ndisp (modField modb) (rmField modb) = 1 <;> simp [State.onSource, hn] <;> rfl
  | immLo => cases hw : immW opc <;> simp [State.onSource, hw] <;> rfl
  | _ => rfl

/-- A `byte` answer is the same small step on every source that has the same octet at its cursor. -/
theorem octetStep_onSource {s : State} {src : ByteSource} {p : Nat} {b : Byte} (ht : s.st.terminal = false)
    (he : src.ended = false) (ho : src.octet p = some b) :
    octetStep (s.onSource src p) = .next ((takeByte b (s.advance 1)).onSource src (p + 1)) := by
  rw [octetStep_byte (s := s.onSource src p) ht he ho, ← takeByte_onSource]
  rfl

/-- An attempt that ends without `EOS` does the same at any position of any source with the octets it consumes there,
by induction on the small steps: each of them asks for the octet at the cursor and for no other. -/
theorem finishAttempt_onSource {k : Nat} {s t : State} {src : ByteSource} {p : Nat} (h : finishAttempt k s = .next t)
    (hte : t.source.ended = false) (he : src.ended = false)
    (hsame : ∀ j, s.pos + j < t.pos → src.octet (p + j) = s.source.octet (s.pos + j)) :
    finishAttempt k (s.onSource src p) = .next (t.onSource src (p + (t.pos - s.pos))) := by
  induction k generalizing s p with
  | zero =>
    obtain rfl := Host.Outcome.next.inj h
    simp [finishAttempt]
  | succ k ih =>
    obtain ⟨u, hu, hrest⟩ := finishAttempt_succ_cases h
    obtain ⟨ht, -, ⟨b, ho, rfl⟩ | ⟨-, rfl⟩⟩ := octetStep_cases hu
    · have hle : s.pos + 1 ≤ t.pos := by
        obtain ⟨-, hlater⟩ | ⟨-, rfl⟩ := hrest
        · simpa using (finishAttempt_pos hlater).1
        · simp
      have hfirst : src.octet p = some b := (hsame 0 (by omega)).trans ho
      rw [finishAttempt_succ, octetStep_onSource ht he hfirst]
      obtain ⟨hin, hlater⟩ | ⟨hout, rfl⟩ := hrest
      · have hrun := ih (p := p + 1) hlater fun j hj => by
          simpa [Nat.add_assoc] using hsame (1 + j) (by simpa [Nat.add_assoc] using hj)
        have hpos : p + 1 + (t.pos - (s.pos + 1)) = p + (t.pos - s.pos) := by omega
        simp only [takeByte_pos, State.advance_pos, hpos] at hrun
        simpa [State.onSource, hin] using hrun
      · simp [State.onSource, hout]
    · obtain ⟨hin, -⟩ | ⟨-, rfl⟩ := hrest
      · simp [takeEos_not_inside] at hin
      · simp at hte

/-- Settles O53: the step is the small steps of its attempt, and they ask for no octet but those consumed. -/
theorem onlyConsumedOctetsMatter : Obligations.OnlyConsumedOctetsMatter := by
  unfold Obligations.OnlyConsumedOctetsMatter
  intro s t p src _ h hte he hsame
  exact (bigStepIsTheOctetSteps (s.onSource src p)).trans
    (finishAttempt_onSource (finishAttempt_of_step h) hte he hsame)

/-! ## A run consumes the stream and ends with one `EOS` (R65; 41_opcode_classifier.md R140) -/

theorem takeByte_not_terminal (b : Byte) {s : State} (ht : s.st.terminal = false) :
    (takeByte b s).st.terminal = false := by
  obtain ⟨hin, -⟩ | ⟨hst, -⟩ | ⟨-, hr⟩ := takeByte_cases b ht
  · exact SeqState.not_terminal_of_inside hin
  · rw [hst]
    rfl
  · rw [hr]
    rfl

theorem takeEos_terminal_of_abort {s : State} (ht : s.st.terminal = false) (hp : s.cfg.eosPolicy = .abort) :
    (takeEos s).st.terminal = true := by
  obtain hr | hr := takeEos_cases ht
  · rw [hr]
    rfl
  · rw [hr, raiseEos_st, hp]
    rfl

theorem octetRun_succ_of_octetStep {k : Nat} {s u : State} (h : octetStep s = .next u) :
    octetRun (k + 1) s = octetRun k u := by
  simp [octetRun, h]

theorem octetRun_add {k : Nat} {s u : State} (m : Nat) (h : octetRun k s = .next u) :
    octetRun (k + m) s = octetRun m u := by
  induction k generalizing s with
  | zero =>
    obtain rfl := Host.Outcome.next.inj h
    rw [Nat.zero_add]
  | succ k ih =>
    cases ho : octetStep s with
    | next v =>
      rw [octetRun_succ_of_octetStep ho] at h
      rw [Nat.succ_add, octetRun_succ_of_octetStep ho, ih h]
    | fault r => simp [octetRun, ho] at h
    | refused r => simp [octetRun, ho] at h

/-- As long as the stream has octets, a run consumes one a small step and does not halt. -/
theorem octetRun_of_octets {k : Nat} {s : State} (ht : s.st.terminal = false) (he : s.source.ended = false)
    (hhas : ∀ j, j < k → s.source.octet (s.pos + j) ≠ none) :
    ∃ u, octetRun k s = .next u ∧ u.st.terminal = false ∧ u.pos = s.pos + k ∧ u.source = s.source ∧ u.cfg = s.cfg := by
  induction k generalizing s with
  | zero => exact ⟨s, rfl, ht, rfl, rfl, rfl⟩
  | succ k ih =>
    obtain ⟨b, hb⟩ := Option.ne_none_iff_exists'.1 (hhas 0 (by omega))
    have hnext (j : Nat) (hj : j < k) : s.source.octet (s.pos + 1 + j) ≠ none := by
      rw [Nat.add_assoc]
      exact hhas (1 + j) (by omega)
    obtain ⟨u, hu, hut, hpos, hsrc, hcfg⟩ := ih (s := takeByte b (s.advance 1)) (takeByte_not_terminal b ht)
      (by simpa using he) (by simpa using hnext)
    refine ⟨u, (octetRun_succ_of_octetStep (octetStep_byte ht he hb)).trans hu, hut, ?_, by simpa using hsrc,
      by simpa using hcfg⟩
    rw [hpos, takeByte_pos, State.advance_pos]
    omega

/-- The small step at the stream's end, under `abort`: the one `EOS` answer halts the machine. -/
theorem octetRun_one_at_end {s : State} (ht : s.st.terminal = false) (he : s.source.ended = false)
    (hp : s.cfg.eosPolicy = .abort) (hl : s.source.length = some s.pos) :
    ∃ t, octetRun 1 s = .next t ∧ t.st.terminal = true ∧ t.pos = s.pos ∧ t.source.ended = true := by
  have hnone : s.source.octet s.pos = none := ByteSource.octet_eq_none.2 ⟨s.pos, hl, le_rfl⟩
  exact ⟨_, octetRun_succ_of_octetStep (octetStep_eos ht he hnone), takeEos_terminal_of_abort (s := s.markEnded) ht hp,
    by simp, by simp⟩

/-- Settles O42: the run consumes the octets left and then meets the one `EOS`; on an endless stream there is always
an octet left. -/
theorem finiteStreamEndsTheRun : Obligations.FiniteStreamEndsTheRun := by
  unfold Obligations.FiniteStreamEndsTheRun
  refine ⟨fun s l ht he hp hl hle => ?_, fun s ht he hl k => ?_⟩
  · have hhas (j : Nat) (hj : s.pos + j < l) : s.source.octet (s.pos + j) ≠ none :=
      Option.ne_none_iff_exists'.2 ((ByteSource.octet_isSome hl).2 hj)
    refine ⟨fun k hk => ?_, ?_⟩
    · obtain ⟨u, hu, hut, hpos, hsrc, -⟩ := octetRun_of_octets (k := k) ht he fun j _ => hhas j (by omega)
      exact ⟨u, hu, hut, hpos, hsrc ▸ he⟩
    · obtain ⟨u, hu, hut, hpos, hsrc, hcfg⟩ := octetRun_of_octets (k := l - s.pos) ht he fun j _ => hhas j (by omega)
      have hend : u.pos = l := by omega
      obtain ⟨t, ht1, htt, htpos, hte⟩ := octetRun_one_at_end hut (hsrc ▸ he) (hcfg ▸ hp) (by rw [hsrc, hl, hend])
      exact ⟨t, (octetRun_add 1 hu).trans ht1, htt, htpos.trans hend, hte⟩
  · have hhas (j : Nat) : s.source.octet (s.pos + j) ≠ none := by simp [ByteSource.octet_eq_none, hl]
    obtain ⟨u, hu, hut, hpos, -, -⟩ := octetRun_of_octets (k := k) ht he fun j _ => hhas j
    exact ⟨u, hu, hut, hpos⟩

/-! ## How a run that keeps the invariant ends (R52; 10_state.md R24; 60_exceptions.md R242) -/

/-- The one refusal: a request to a source that has answered `EOS`. -/
theorem octetStep_refused {s : State} {r : Refusal} (h : octetStep s = .refused r) :
    s.st.terminal = false ∧ s.source.ended = true := by
  have ht : s.st.terminal = false := by
    cases hs : s.st <;> simp_all [octetStep, SeqState.terminal]
  refine ⟨ht, ?_⟩
  cases he : s.source.ended with
  | true => rfl
  | false =>
    cases ho : s.source.octet s.pos with
    | some b => simp [octetStep_byte ht he ho] at h
    | none => simp [octetStep_eos ht he ho] at h

/-- Under `abort` the decoder has halted once the source has answered `EOS`. -/
theorem Inv.terminal_of_ended {s : State} (h : Inv s) (hp : s.cfg.eosPolicy = .abort)
    (he : s.source.ended = true) : s.st.terminal = true := by
  obtain ⟨-, -, ⟨-, -, -, -, hhalt⟩, -, -⟩ := h
  obtain ht | ⟨-, hresume⟩ := hhalt he
  · exact ht
  · simp [hp] at hresume

theorem octetStep_not_refused {s : State} (h : Inv s) (hp : s.cfg.eosPolicy = .abort) (r : Refusal) :
    octetStep s ≠ .refused r := by
  intro hr
  obtain ⟨ht, he⟩ := octetStep_refused hr
  simp [h.terminal_of_ended hp he] at ht

theorem finishAttempt_not_refused {k : Nat} {s : State} (h : Inv s) (hp : s.cfg.eosPolicy = .abort) (r : Refusal) :
    finishAttempt k s ≠ .refused r := by
  induction k generalizing s with
  | zero => simp [finishAttempt]
  | succ k ih =>
    rw [finishAttempt_succ]
    cases ho : octetStep s with
    | next t =>
      obtain ⟨hcfg, -⟩ := octetStep_keeps_stream_and_flags ho
      cases hin : t.st.inside with
      | true => simpa [hin] using ih (octetStep_keeps_inv h ho) (hcfg ▸ hp)
      | false => simp [hin]
    | fault r' => simp
    | refused r' => exact absurd ho (octetStep_not_refused h hp r')

/-- An event that is neither final nor an error is an instruction's. -/
theorem Event.eq_instr {e : Event} (hfinal : e.isFinal = false) (herr : ∀ b, e ≠ .errUnsupported b) :
    ∃ i, .instr i = e := by
  cases e with
  | instr i => exact ⟨i, rfl⟩
  | errUnsupported b => exact absurd rfl (herr b)
  | errEos => cases hfinal
  | endOfRun => cases hfinal

/-- At a clean end the invariant leaves only `INSTR` events before the `END`. -/
theorem Inv.trace_of_cleanEnd {s : State} (h : Inv s) (hend : s.cleanEnd) :
    ∃ p : List Instruction, s.trace = p.map Event.instr ++ [.endOfRun] := by
  obtain ⟨-, -, ⟨hopen, -, hlast, -, -⟩, ⟨hunsup, -⟩, -⟩ := h
  obtain ⟨hst, hclear, -⟩ := hend
  have hnoerr (b : Byte) : .errUnsupported b ∉ s.trace := fun hb => by
    simpa [hclear] using hunsup.2 ⟨b, hb⟩
  have hinstr : ∀ e ∈ s.trace.dropLast, e ∈ Set.range Event.instr := fun e he =>
    Event.eq_instr (hopen e he) fun b hb => hnoerr b (hb ▸ List.mem_of_mem_dropLast he)
  have hrange : s.trace.dropLast ∈ Set.range (List.map Event.instr) := Set.range_list_map Event.instr ▸ hinstr
  obtain ⟨p, hp⟩ := hrange
  exact ⟨p, hp ▸ (List.dropLast_append_getLast? _ (hlast hst)).symm⟩

/-- Settles O47: a refusal would be a request after `EOS`, where the decoder has halted; a clean end's trace is read
off the invariant. -/
theorem endsOfARun : Obligations.EndsOfARun := by
  unfold Obligations.EndsOfARun
  refine ⟨fun s h hp r => ⟨?_, octetStep_not_refused h hp r⟩, fun s h hend => ?_⟩
  · rw [bigStepIsTheOctetSteps s]
    exact finishAttempt_not_refused h hp r
  · obtain ⟨p, hp⟩ := h.trace_of_cleanEnd hend
    obtain ⟨-, -, -, -, hevent⟩ := h
    refine ⟨p, hp, fun i hi => ?_⟩
    have hmem : .instr i ∈ s.trace := by simp [hp, hi]
    exact hevent _ hmem

end Sys2Proof.Machine
end

section
/-! The encoding and its decoder (30_encoding.md). A decode attempt that finds an instruction has one of six
shapes, by the class of the opcode byte and by `ndisp`. Each shape gives the instruction's octets and its length. -/

namespace Sys2Proof.Machine

/-! ## `ndisp` and the direct-address case (R91) -/

theorem isDirect_iff {mod : Mod2} {rm : Code3} : isDirect mod rm = true ↔ mod = 0b00#2 ∧ rm = 0b110#3 := by
  simp [isDirect]

/-- Settles O7, by `ndisp` read backwards. -/
theorem ndispTable : Obligations.NdispTable := by
  unfold Obligations.NdispTable
  intro rm
  exact ⟨rfl, rfl, rfl, fun hrm => ndisp_eq_two.2 (.inr ⟨rfl, hrm⟩), fun hrm => ndisp_eq_zero.2 (.inr ⟨rfl, hrm⟩),
    fun _ => isDirect_iff⟩

/-! ## The octets of each family of rows (R81, R82) -/

section
variable {mod : Mod2} {rm : Code3} (c : Config) (d w : Bool) (reg : Code3)

theorem encode_rmNoDisp (h : ndisp mod rm = 0) :
    encode c (rmNoDisp d w mod reg rm) = [rmOpcode c d w, modeByte mod reg rm] := by
  obtain rfl | ⟨rfl, -⟩ := ndisp_eq_zero.1 h <;> cases d <;> rfl

theorem encode_rmDisp8 (h : ndisp mod rm = 1) (v : Byte) :
    encode c (rmDisp8 d w reg rm v) = [rmOpcode c d w, modeByte mod reg rm, v] := by
  obtain rfl := ndisp_eq_one.1 h
  cases d <;> rfl

theorem encode_rmTwoOctets (h : ndisp mod rm = 2) (v : Word16) :
    encode c (rmTwoOctets d w mod reg rm v) =
      [rmOpcode c d w, modeByte mod reg rm, lowOctet v, highOctet v] := by
  obtain rfl | ⟨rfl, rfl⟩ := ndisp_eq_two.1 h <;> cases d <;> rfl

theorem wellFormed_rmNoDisp (h : ndisp mod rm = 0) : (rmNoDisp d w mod reg rm).WellFormed c = true := by
  obtain rfl | ⟨rfl, hrm⟩ := ndisp_eq_zero.1 h
  · cases d <;> rfl
  · cases d <;> exact decide_eq_true hrm

theorem wellFormed_rmDisp8 (v : Byte) : (rmDisp8 d w reg rm v).WellFormed c = true := by
  cases d <;> rfl

theorem wellFormed_rmTwoOctets (h : ndisp mod rm = 2) (v : Word16) :
    (rmTwoOctets d w mod reg rm v).WellFormed c = true := by
  obtain rfl | ⟨rfl, rfl⟩ := ndisp_eq_two.1 h <;> cases d <;> rfl

theorem wellFormed_movRegImm8 (v : Byte) :
    (Instr.movRegImm8 reg v).WellFormed c = true ↔ classify c (immOpcode c false reg) = .imm := by
  rw [classify_eq_imm, and_iff_left (immOpcode_bits c false reg)]
  exact decide_eq_true_iff

theorem wellFormed_movRegImm16 (v : Word16) :
    (Instr.movRegImm16 reg v).WellFormed c = true ↔ classify c (immOpcode c true reg) = .imm := by
  rw [classify_eq_imm, and_iff_left (immOpcode_bits c true reg)]
  exact decide_eq_true_iff

theorem wellFormed_unsupported (b : Byte) :
    (Instr.unsupported b).WellFormed c = true ↔ classify c b = .unsupported := by
  rw [classify_eq_unsupported, Bool.and_eq_true, decide_eq_true_iff, decide_eq_true_iff]

/-! ## The octets of each family of rows decode to the row -/

variable (rest : List Byte)

theorem decode_rmNoDisp (h : ndisp mod rm = 0) :
    decode c (rmOpcode c d w :: modeByte mod reg rm :: rest) = .ok (rmNoDisp d w mod reg rm) rest := by
  rw [decode_of_rm (classify_rmOpcode c d w), decodeRm_noDisp (by simpa using h)]
  simp

theorem decode_rmDisp8 (h : ndisp mod rm = 1) (v : Byte) :
    decode c (rmOpcode c d w :: modeByte mod reg rm :: v :: rest) = .ok (rmDisp8 d w reg rm v) rest := by
  rw [decode_of_rm (classify_rmOpcode c d w), decodeRm_disp8 (by simpa using h)]
  simp

theorem decode_rmTwoOctets (h : ndisp mod rm = 2) (v : Word16) :
    decode c (rmOpcode c d w :: modeByte mod reg rm :: lowOctet v :: highOctet v :: rest) =
      .ok (rmTwoOctets d w mod reg rm v) rest := by
  rw [decode_of_rm (classify_rmOpcode c d w), decodeRm_twoOctets (by simpa using h)]
  simp

theorem decode_movRegImm8 (hc : classify c (immOpcode c false reg) = .imm) (v : Byte) :
    decode c (immOpcode c false reg :: v :: rest) = .ok (.movRegImm8 reg v) rest := by
  rw [decode_of_imm hc, decodeImm_byte (immW_immOpcode c false reg), immReg_immOpcode]

theorem decode_movRegImm16 (hc : classify c (immOpcode c true reg) = .imm) (v : Word16) :
    decode c (immOpcode c true reg :: lowOctet v :: highOctet v :: rest) = .ok (.movRegImm16 reg v) rest := by
  rw [decode_of_imm hc, decodeImm_word (immW_immOpcode c true reg), immReg_immOpcode, hiLo_high_low]

end

/-- Settles O1, row by row: each row is one of the families above, at its `mod` and its direction. -/
theorem decodeOfEncode : Obligations.DecodeOfEncode := by
  unfold Obligations.DecodeOfEncode
  intro c i rest h
  cases i with
  | movRmRegDirect w reg rm => exact decode_rmNoDisp c false w reg rest (mod := 0b11#2) rfl
  | movRegRmDirect w reg rm => exact decode_rmNoDisp c true w reg rest (mod := 0b11#2) rfl
  | movRmRegAddr w reg addr => exact decode_rmTwoOctets c false w reg rest (mod := 0b00#2) (rm := 0b110#3) rfl addr
  | movRegRmAddr w reg addr => exact decode_rmTwoOctets c true w reg rest (mod := 0b00#2) (rm := 0b110#3) rfl addr
  | movRmRegMem w reg rm =>
    exact decode_rmNoDisp c false w reg rest (ndisp_eq_zero.2 (.inr ⟨rfl, of_decide_eq_true h⟩))
  | movRegRmMem w reg rm =>
    exact decode_rmNoDisp c true w reg rest (ndisp_eq_zero.2 (.inr ⟨rfl, of_decide_eq_true h⟩))
  | movRmRegDisp8 w reg rm d8 => exact decode_rmDisp8 c false w reg rest (mod := 0b01#2) rfl d8
  | movRegRmDisp8 w reg rm d8 => exact decode_rmDisp8 c true w reg rest (mod := 0b01#2) rfl d8
  | movRmRegDisp16 w reg rm d16 => exact decode_rmTwoOctets c false w reg rest (mod := 0b10#2) rfl d16
  | movRegRmDisp16 w reg rm d16 => exact decode_rmTwoOctets c true w reg rest (mod := 0b10#2) rfl d16
  | movRegImm8 reg data => exact decode_movRegImm8 c reg rest ((wellFormed_movRegImm8 c reg data).1 h) data
  | movRegImm16 reg data => exact decode_movRegImm16 c reg rest ((wellFormed_movRegImm16 c reg data).1 h) data
  | unsupported b => exact decode_of_unsupported ((wellFormed_unsupported c b).1 h) rest

/-- Settles O3, word by word: each is the encoding of its instruction. -/
theorem specWordsDecode : Obligations.SpecWordsDecode := by
  unfold Obligations.SpecWordsDecode
  exact ⟨decodeOfEncode _ (.movRmRegDirect true 0b011#3 0b001#3) [] rfl,
    decodeOfEncode _ (.movRegRmDirect false 0b000#3 0b001#3) [] rfl,
    decodeOfEncode _ (.movRmRegAddr true 0b001#3 0x1234#16) [] rfl,
    decodeOfEncode _ (.movRegRmAddr false 0b011#3 0x7FFF#16) [] rfl,
    decodeOfEncode _ (.movRmRegMem false 0b001#3 0b100#3) [] rfl,
    decodeOfEncode _ (.movRegRmMem true 0b011#3 0b010#3) [] rfl,
    decodeOfEncode _ (.movRmRegDisp8 false 0b101#3 0b110#3 0x01#8) [] rfl,
    decodeOfEncode _ (.movRegRmDisp8 true 0b000#3 0b110#3 0xFB#8) [] rfl,
    decodeOfEncode _ (.movRmRegDisp16 true 0b010#3 0b100#3 0x03E8#16) [] rfl,
    decodeOfEncode _ (.movRegRmDisp16 true 0b010#3 0b111#3 0x0100#16) [] rfl,
    decodeOfEncode _ (.movRegImm8 0b111#3 0xFF#8) [] rfl,
    decodeOfEncode _ (.movRegImm16 0b001#3 0x000C#16) [] rfl,
    decodeOfEncode _ (.unsupported 0x8C#8) [0x00#8] rfl⟩

/-! ## The six shapes of a decode attempt that finds an instruction (R83, R94) -/

/-- The octets that lie ahead, the instruction found, and the octets left over. -/
inductive DecodeShape (c : Config) : List Byte → Instr → List Byte → Prop
  | noDisp {b m : Byte} {rest : List Byte} (hc : classify c b = .rm) (hn : ndisp (modField m) (rmField m) = 0) :
    DecodeShape c (b :: m :: rest) (rmNoDisp (opcD b) (opcW b) (modField m) (regField m) (rmField m)) rest
  | disp8 {b m l : Byte} {rest : List Byte} (hc : classify c b = .rm) (hn : ndisp (modField m) (rmField m) = 1) :
    DecodeShape c (b :: m :: l :: rest) (rmDisp8 (opcD b) (opcW b) (regField m) (rmField m) l) rest
  | twoOctets {b m l h : Byte} {rest : List Byte} (hc : classify c b = .rm)
      (hn : ndisp (modField m) (rmField m) = 2) :
    DecodeShape c (b :: m :: l :: h :: rest)
      (rmTwoOctets (opcD b) (opcW b) (modField m) (regField m) (rmField m) (hiLo h l)) rest
  | imm8 {b l : Byte} {rest : List Byte} (hc : classify c b = .imm) (hw : immW b = false) :
    DecodeShape c (b :: l :: rest) (.movRegImm8 (immReg b) l) rest
  | imm16 {b l h : Byte} {rest : List Byte} (hc : classify c b = .imm) (hw : immW b = true) :
    DecodeShape c (b :: l :: h :: rest) (.movRegImm16 (immReg b) (hiLo h l)) rest
  | unsupported {b : Byte} {rest : List Byte} (hc : classify c b = .unsupported) :
    DecodeShape c (b :: rest) (.unsupported b) rest

theorem decodeShape_of_decodeRm {c : Config} {b : Byte} {bs rest : List Byte} {i : Instr}
    (hc : classify c b = .rm) (h : decodeRm b bs = .ok i rest) : DecodeShape c (b :: bs) i rest := by
  match bs with
  | [] => cases h
  | m :: bs =>
    obtain hn | hn | hn := ndisp_cases (modField m) (rmField m)
    · rw [decodeRm_noDisp hn] at h
      cases h
      exact .noDisp hc hn
    · match bs with
      | [] => simp [decodeRm_no_displacement_octet, hn] at h
      | l :: bs =>
        rw [decodeRm_disp8 hn] at h
        cases h
        exact .disp8 hc hn
    · match bs with
      | [] => simp [decodeRm_no_displacement_octet, hn] at h
      | [l] => simp [decodeRm_no_high_octet hn] at h
      | l :: h' :: bs =>
        rw [decodeRm_twoOctets hn] at h
        cases h
        exact .twoOctets hc hn

theorem decodeShape_of_decodeImm {c : Config} {b : Byte} {bs rest : List Byte} {i : Instr}
    (hc : classify c b = .imm) (h : decodeImm b bs = .ok i rest) : DecodeShape c (b :: bs) i rest := by
  match bs with
  | [] => simp [decodeImm_nil] at h
  | l :: bs =>
    cases hw : immW b with
    | false =>
      rw [decodeImm_byte hw] at h
      cases h
      exact .imm8 hc hw
    | true =>
      match bs with
      | [] => simp [decodeImm_no_high_octet hw] at h
      | h' :: bs =>
        rw [decodeImm_word hw] at h
        cases h
        exact .imm16 hc hw

/-- Everything a decode attempt that finds an instruction can be. -/
theorem decodeShape_of_decode {c : Config} {bs rest : List Byte} {i : Instr} (h : decode c bs = .ok i rest) :
    DecodeShape c bs i rest := by
  match bs with
  | [] => cases h
  | b :: bs =>
    cases hc : classify c b with
    | rm => exact decodeShape_of_decodeRm hc (decode_of_rm hc bs ▸ h)
    | imm => exact decodeShape_of_decodeImm hc (decode_of_imm hc bs ▸ h)
    | unsupported =>
      rw [decode_of_unsupported hc] at h
      cases h
      exact .unsupported hc

/-- Settles O2, shape by shape: the opcode and the mode byte are assembled again from their own fields. -/
theorem decodedOctetsAreTheEncoding : Obligations.DecodedOctetsAreTheEncoding := by
  unfold Obligations.DecodedOctetsAreTheEncoding
  intro c bs rest i h
  cases decodeShape_of_decode h with
  | noDisp hc hn =>
    refine ⟨wellFormed_rmNoDisp c _ _ _ hn, ?_⟩
    rw [encode_rmNoDisp c _ _ _ hn, rmOpcode_of_classify hc, modeByte_of_fields]
    rfl
  | disp8 hc hn =>
    refine ⟨wellFormed_rmDisp8 c _ _ _ _, ?_⟩
    rw [encode_rmDisp8 c _ _ _ hn, rmOpcode_of_classify hc, modeByte_of_fields]
    rfl
  | twoOctets hc hn =>
    refine ⟨wellFormed_rmTwoOctets c _ _ _ hn _, ?_⟩
    rw [encode_rmTwoOctets c _ _ _ hn, rmOpcode_of_classify hc, modeByte_of_fields, lowOctet_hiLo, highOctet_hiLo]
    rfl
  | @imm8 b l _ hc hw =>
    have hb : immOpcode c false (immReg b) = b := hw ▸ immOpcode_of_classify hc
    exact ⟨(wellFormed_movRegImm8 c _ _).2 (by rwa [hb]), by simp [encode, hb]⟩
  | @imm16 b l h _ hc hw =>
    have hb : immOpcode c true (immReg b) = b := hw ▸ immOpcode_of_classify hc
    exact ⟨(wellFormed_movRegImm16 c _ _).2 (by rwa [hb]), by simp [encode, hb]⟩
  | unsupported hc => exact ⟨(wellFormed_unsupported c _).2 hc, rfl⟩

/-! ## Lengths (R84) -/

section
variable {c : Config} {b m : Byte} {bs rest : List Byte} {i : Instr}

/-- Format `RM` consumes the opcode byte, the mode byte and `ndisp` octets. -/
theorem length_of_decode_rm (hc : classify c b = .rm) (h : decode c (b :: m :: bs) = .ok i rest) :
    (b :: m :: bs).length = rest.length + (2 + ndisp (modField m) (rmField m)) := by
  cases decodeShape_of_decode h with
  | noDisp _ hn => simp [hn]
  | disp8 _ hn => simp [hn]
  | twoOctets _ hn => simp [hn]
  | imm8 hc' _ => simp [hc] at hc'
  | imm16 hc' _ => simp [hc] at hc'
  | unsupported hc' => simp [hc] at hc'

/-- Format `IMM` consumes the opcode byte and one or two octets, by `w`. -/
theorem length_of_decode_imm (hc : classify c b = .imm) (h : decode c (b :: m :: bs) = .ok i rest) :
    (b :: m :: bs).length = rest.length + (2 + (immW b).toNat) := by
  cases decodeShape_of_decode h with
  | noDisp hc' _ => simp [hc] at hc'
  | disp8 hc' _ => simp [hc] at hc'
  | twoOctets hc' _ => simp [hc] at hc'
  | imm8 _ hw => simp [hw]
  | imm16 _ hw => simp [hw]
  | unsupported hc' => simp [hc] at hc'

end

/-- Settles O8: the length of each format, at the value of `ndisp` (O7) or of `w`. -/
theorem instructionLengths : Obligations.InstructionLengths := by
  unfold Obligations.InstructionLengths
  refine ⟨fun c b m bs rest i h => ⟨fun hc => ?_, fun hc => ?_⟩, fun c b bs hc => decode_of_unsupported hc bs⟩
  · have hlen := length_of_decode_rm hc h
    obtain ⟨h11, h01, h10, hdirect, hmem, -⟩ := ndispTable (rmField m)
    refine ⟨fun hm => ?_, fun hm hrm => ?_, fun hm hrm => ?_, fun hm => ?_, fun hm => ?_⟩ <;> rw [hlen, hm]
    · rw [h11]
    · rw [hmem hrm]
    · rw [hdirect hrm]
    · rw [h01]
    · rw [h10]
  · have hlen := length_of_decode_imm hc h
    exact ⟨fun hw => by rw [hlen, hw]; rfl, fun hw => by rw [hlen, hw]; rfl⟩

end Sys2Proof.Machine
end

section
/-! The opcode table (30_encoding.md R98). Its masks test the class, the direction, `mod` and `rm`, so the first row that
fits is the row of what is decoded. -/

namespace Sys2Proof.Machine

/-! ## What the rows test -/

theorem hiLo_eq_iff {h l : Byte} {v : Word16} : hiLo h l = v ↔ h = highOctet v ∧ l = lowOctet v := by
  constructor
  · rintro rfl
    exact ⟨(highOctet_hiLo h l).symm, (lowOctet_hiLo h l).symm⟩
  · rintro ⟨rfl, rfl⟩
    exact hiLo_high_low v

theorem hiLo_and (h l : Byte) (v : Word16) :
    hiLo h l &&& v = hiLo (h &&& highOctet v) (l &&& lowOctet v) := by
  conv_lhs => rw [← hiLo_high_low v]
  exact BitVec.and_append

/-- A row tests the two octets each on its own. -/
@[simp] theorem fits_some (r : TableRow) (b0 b1 : Byte) : r.fits b0 (some b1) =
    (decide (b0 &&& highOctet r.mask = highOctet r.value) && decide (b1 &&& lowOctet r.mask = lowOctet r.value)) := by
  have hword : hiLo b0 b1 &&& r.mask = r.value ↔
      b0 &&& highOctet r.mask = highOctet r.value ∧ b1 &&& lowOctet r.mask = lowOctet r.value := by
    rw [hiLo_and, hiLo_eq_iff]
  rw [← Bool.decide_and]
  exact decide_eq_decide.2 hword

/-- Where byte 1 does not exist, a row that looks at it does not fit, and another row tests byte 0. -/
@[simp] theorem fits_none (r : TableRow) (b0 : Byte) : r.fits b0 none =
    (decide (lowOctet r.mask = 0#8) && r.fits b0 (some 0#8)) := rfl

/-- What the table's masks of byte 0 test, under the defaults. -/
@[simp] theorem byte0_masks (b : Byte) :
    (b &&& 0xFE#8 = 0x88#8 ↔ classify Config.default b = .rm ∧ opcD b = false) ∧
      (b &&& 0xFE#8 = 0x8A#8 ↔ classify Config.default b = .rm ∧ opcD b = true) ∧
      (b &&& 0xF8#8 = 0xB0#8 ↔ classify Config.default b = .imm ∧ immW b = false) ∧
      (b &&& 0xF8#8 = 0xB8#8 ↔ classify Config.default b = .imm ∧ immW b = true) := by
  revert b
  decide

/-- What the table's masks of byte 1 test. -/
@[simp] theorem byte1_masks (m : Byte) :
    (m &&& 0xC0#8 = 0xC0#8 ↔ modField m = 0b11#2) ∧ (m &&& 0xC0#8 = 0x80#8 ↔ modField m = 0b10#2) ∧
      (m &&& 0xC0#8 = 0x40#8 ↔ modField m = 0b01#2) ∧ (m &&& 0xC0#8 = 0x00#8 ↔ modField m = 0b00#2) ∧
      (m &&& 0xC7#8 = 0x06#8 ↔ modField m = 0b00#2 ∧ rmField m = 0b110#3) := by
  revert m
  decide

/-! ## The first row that fits, by the shape of the octets -/

/-- The first row that fits the octets is the row of `i`, with its length. -/
def FirstRowIs (b0 : Byte) (b1 : Option Byte) (i : Instr) : Prop :=
  ∃ r, tableLookup b0 b1 = some r ∧ r.form = i.form ∧ r.length = i.size

section
variable {b m : Byte} (w : Bool) (reg : Code3)

theorem firstRowIs_rmNoDisp (hc : classify Config.default b = .rm) (hn : ndisp (modField m) (rmField m) = 0) :
    FirstRowIs b (some m) (rmNoDisp (opcD b) w (modField m) reg (rmField m)) := by
  obtain hm | ⟨hm, hrm⟩ := ndisp_eq_zero.1 hn
  · cases hd : opcD b <;>
      simp [FirstRowIs, tableLookup, opcodeTable, lowOctet, highOctet, hc, hd, hm, rmNoDisp, Instr.form, Instr.size]
  · cases hd : opcD b <;>
      simp [FirstRowIs, tableLookup, opcodeTable, lowOctet, highOctet, hc, hd, hm, hrm, rmNoDisp, Instr.form,
        Instr.size]

theorem firstRowIs_rmDisp8 (hc : classify Config.default b = .rm) (hn : ndisp (modField m) (rmField m) = 1)
    (v : Byte) : FirstRowIs b (some m) (rmDisp8 (opcD b) w reg (rmField m) v) := by
  have hm := ndisp_eq_one.1 hn
  cases hd : opcD b <;>
    simp [FirstRowIs, tableLookup, opcodeTable, lowOctet, highOctet, hc, hd, hm, rmDisp8, Instr.form, Instr.size]

/-- A direct address fits a row without displacement too; its own row stands before that one. -/
theorem firstRowIs_rmTwoOctets (hc : classify Config.default b = .rm) (hn : ndisp (modField m) (rmField m) = 2)
    (v : Word16) : FirstRowIs b (some m) (rmTwoOctets (opcD b) w (modField m) reg (rmField m) v) := by
  obtain hm | ⟨hm, hrm⟩ := ndisp_eq_two.1 hn
  · cases hd : opcD b <;>
      simp [FirstRowIs, tableLookup, opcodeTable, lowOctet, highOctet, hc, hd, hm, rmTwoOctets, isDirect, Instr.form,
        Instr.size]
  · cases hd : opcD b <;>
      simp [FirstRowIs, tableLookup, opcodeTable, lowOctet, highOctet, hc, hd, hm, hrm, rmTwoOctets, isDirect,
        Instr.form, Instr.size]

theorem firstRowIs_movRegImm8 (hc : classify Config.default b = .imm) (hw : immW b = false) (v : Byte) :
    FirstRowIs b (some m) (.movRegImm8 reg v) := by
  simp [FirstRowIs, tableLookup, opcodeTable, lowOctet, highOctet, hc, hw, Instr.form, Instr.size]

theorem firstRowIs_movRegImm16 (hc : classify Config.default b = .imm) (hw : immW b = true) (v : Word16) :
    FirstRowIs b (some m) (.movRegImm16 reg v) := by
  simp [FirstRowIs, tableLookup, opcodeTable, lowOctet, highOctet, hc, hw, Instr.form, Instr.size]

/-- No other row fits byte 0, whether byte 1 exists or not. -/
theorem firstRowIs_unsupported (hc : classify Config.default b = .unsupported) (b1 : Option Byte) :
    FirstRowIs b b1 (.unsupported b) := by
  cases b1 <;>
    simp [FirstRowIs, tableLookup, opcodeTable, lowOctet, highOctet, hc, Instr.form, Instr.size]

end

/-- Settles O10, shape by shape: the masks test the class, the direction, `mod` and `rm` that the shape is made of. -/
theorem opcodeTableFirstMatch : Obligations.OpcodeTableFirstMatch := by
  unfold Obligations.OpcodeTableFirstMatch
  intro b0 bs rest i h
  cases decodeShape_of_decode h with
  | noDisp hc hn => exact firstRowIs_rmNoDisp _ _ hc hn
  | disp8 hc hn => exact firstRowIs_rmDisp8 _ _ hc hn _
  | twoOctets hc hn => exact firstRowIs_rmTwoOctets _ _ hc hn _
  | imm8 hc hw => exact firstRowIs_movRegImm8 _ hc hw _
  | imm16 hc hw => exact firstRowIs_movRegImm16 _ hc hw _
  | unsupported hc => exact firstRowIs_unsupported hc _

end Sys2Proof.Machine
end

section
/-! The numbers that the encoding assembles, opcode bytes (30_encoding.md R85) and values (R90), and the different
octets that give one event (R97). -/

namespace Sys2Proof.Machine

/-! ## Opcode bytes (R85) -/

/-- The value of bits put side by side. -/
theorem toNat_append_add {m n : Nat} (x : BitVec m) (y : BitVec n) : (x ++ y).toNat = 2 ^ n * x.toNat + y.toNat := by
  rw [BitVec.toNat_append, ← Nat.shiftLeft_add_eq_or_of_lt y.isLt, Nat.shiftLeft_eq, Nat.mul_comm]

theorem toNat_rmOpcode (c : Config) (d w : Bool) :
    (rmOpcode c d w).toNat = 4 * c.opcRr6.toNat + 2 * d.toNat + w.toNat := by
  rw [rmOpcode, toNat_append_add, toNat_append_add, BitVec.toNat_ofBool, BitVec.toNat_ofBool]
  omega

theorem toNat_immOpcode (c : Config) (w : Bool) (reg : Code3) :
    (immOpcode c w reg).toNat = 16 * c.opcImm4.toNat + 8 * w.toNat + reg.toNat := by
  rw [immOpcode, toNat_append_add, toNat_append_add, BitVec.toNat_ofBool]
  omega

/-- The register names by code: the ROM's first eight entries are the bytes, its last eight the words (R110). -/
theorem regName_eq_getElem (reg : Code3) :
    regName reg false = [RegName.al, .cl, .dl, .bl, .ah, .ch, .dh, .bh][reg.toNat]'reg.isLt ∧
      regName reg true = [RegName.ax, .cx, .dx, .bx, .sp, .bp, .si, .di][reg.toNat]'reg.isLt := by
  revert reg
  decide

/-- Settles O6: the general values, at the two parameter settings. -/
theorem opcodeByteValues : Obligations.OpcodeByteValues := by
  unfold Obligations.OpcodeByteValues
  refine ⟨toNat_rmOpcode, toNat_immOpcode, ⟨rfl, rfl, rfl, rfl⟩, fun reg => ?_,
    toNat_rmOpcode Config.literalReading, fun w reg => ?_⟩
  · obtain ⟨hbyte, hword⟩ := regName_eq_getElem reg
    exact ⟨toNat_immOpcode Config.default false reg, toNat_immOpcode Config.default true reg, hbyte, hword⟩
  · rw [toNat_immOpcode]
    simp [Config.literalReading]

/-! ## Values (R90) -/

/-- Settles O9: a value is its octets' number, and two octets are below 65536. -/
theorem valueAssembly : Obligations.ValueAssembly := by
  unfold Obligations.ValueAssembly
  refine ⟨toNat_zext16, fun hi lo => ⟨toNat_hiLo hi lo, ?_⟩, rfl, rfl⟩
  have hhi := hi.isLt
  have hlo := lo.isLt
  omega

/-! ## Different octets, one event (R97) -/

/-- (a) The two directions, with the two fields exchanged. -/
theorem eventOf_direct_exchanged (w : Bool) (a b : Code3) :
    eventOf (.movRmRegDirect w a b) = eventOf (.movRegRmDirect w b a) := by
  rw [eventOf_movRmRegDirect, eventOf_movRegRmDirect]

/-- (c) A displacement's low octet alone, or with a zero high octet. -/
theorem eventOf_disp8_eq_disp16 (w : Bool) (reg rm : Code3) (v : Byte) :
    eventOf (.movRmRegDisp8 w reg rm v) = eventOf (.movRmRegDisp16 w reg rm (zext16 v)) ∧
      eventOf (.movRegRmDisp8 w reg rm v) = eventOf (.movRegRmDisp16 w reg rm (zext16 v)) := by
  rw [eventOf_movRmRegDisp8, eventOf_movRmRegDisp16, eventOf_movRegRmDisp8, eventOf_movRegRmDisp16]
  exact ⟨rfl, rfl⟩

/-- (b) A zero displacement is not shown (42_mov_rm_reg.md R159). -/
theorem eventOf_disp8_zero (w : Bool) (reg rm : Code3) :
    eventOf (.movRmRegDisp8 w reg rm 0#8) = eventOf (.movRmRegMem w reg rm) ∧
      eventOf (.movRegRmDisp8 w reg rm 0#8) = eventOf (.movRegRmMem w reg rm) := by
  have hshown : shown (some (zext16 0#8)) = none := rfl
  rw [eventOf_movRmRegDisp8, eventOf_movRmRegMem, eventOf_movRegRmDisp8, eventOf_movRegRmMem, hshown]
  exact ⟨rfl, rfl⟩

theorem exec_pos {i : Instr} {s t : State} (h : exec i s = .next t) : t.pos = s.pos + i.size := by
  obtain ⟨u, -, hu, -, -, -, -, hpos, -⟩ := exec_next i s
  rw [hu] at h
  rw [← Host.Outcome.next.inj h, hpos]

/-- Settles O18: the equal events, the cursor, and the examples' texts. -/
theorem redundantEncodings : Obligations.RedundantEncodings := by
  unfold Obligations.RedundantEncodings
  refine ⟨eventOf_direct_exchanged, fun w reg rm => ?_, eventOf_disp8_eq_disp16, fun _ _ _ => exec_pos,
    by decide, by decide, by decide, by decide, by decide⟩
  obtain ⟨hrm, hreg⟩ := eventOf_disp8_eq_disp16 w reg rm 0#8
  exact ⟨hrm, hreg, fun _ => eventOf_disp8_zero w reg rm⟩

end Sys2Proof.Machine
end

section
/-! The register lookup ROM (40_register_rom.md): its 16 entries, and the `(code, wide)` pair that reaches each of
them. -/

namespace Sys2Proof.Machine

/-! ## The entries (R110) -/

theorem romTable_nodup : romTable.Nodup := by decide

/-- Distinct addresses hold distinct names. -/
theorem rom_injective : Function.Injective rom := by
  intro i j h
  exact BitVec.eq_of_toNat_eq (romTable_nodup.getElem_inj_iff.1 h)

/-- Read in address order, the ROM is its table. -/
theorem map_rom_range : (List.range 16).map (fun n => rom (BitVec.ofNat 4 n)) = romTable := rfl

/-- Settles O11: the table read in address order and its words, no two entries alike, and the 16 lookups. -/
theorem romContents : Obligations.RomContents := by
  unfold Obligations.RomContents
  have hwords : (List.range 16).map (fun n => (rom (BitVec.ofNat 4 n)).asciiWord) = romTable.map RegName.asciiWord := by
    rw [← map_rom_range, List.map_map]
    rfl
  exact ⟨map_rom_range, hwords, fun _ _ h => rom_injective h, by decide⟩

/-! ## The address of a `(code, wide)` pair (R111, R112) -/

theorem toNat_regIdx (code : Code3) (wide : Bool) : (regIdx code wide).toNat = code.toNat + 8 * wide.toNat := by
  rw [regIdx, toNat_append_add, BitVec.toNat_ofBool]
  omega

/-- The register code is the ROM address's low three bits. -/
@[simp] theorem extractLsb'_regIdx (code : Code3) (wide : Bool) : (regIdx code wide).extractLsb' 0 3 = code :=
  BitVec.extractLsb'_append_eq_right

/-- The address determines the pair: its low three bits and its top bit. -/
theorem regIdx_eq_iff {code : Code3} {wide : Bool} {n : RegIdx} :
    regIdx code wide = n ↔ code = n.extractLsb' 0 3 ∧ wide = n.msb := by
  constructor
  · rintro rfl
    exact ⟨(extractLsb'_regIdx code wide).symm, (msb_regIdx code wide).symm⟩
  · rintro ⟨rfl, rfl⟩
    exact regIdx_of_bits n

/-- Settles O12: the address's number, below 16 as every address is, and the address's own bits as its only pair. -/
theorem regIdxReachesEachEntryOnce : Obligations.RegIdxReachesEachEntryOnce := by
  unfold Obligations.RegIdxReachesEachEntryOnce
  refine ⟨fun code wide => ⟨toNat_regIdx code wide, ?_, rfl⟩,
    fun n => ⟨n.extractLsb' 0 3, n.msb, regIdx_of_bits n, fun _ _ h => regIdx_eq_iff.1 h⟩⟩
  rw [← toNat_regIdx]
  exact Nat.le_of_lt_succ (regIdx code wide).isLt

end Sys2Proof.Machine
end

section
/-! The opcode classifier (41_opcode_classifier.md): the class of a first byte by its number, the frames of the rows,
the arms of the small step, where the machine stops, and the decoding of a whole stream of supported instructions. -/

namespace Sys2Proof.Machine

/-! ## The class of a first byte by its number (R130, R131, R134; 30_encoding.md R93) -/

theorem top6_eq_iff {b : Byte} {x : BitVec 6} : b.extractLsb' 2 6 = x ↔ b.toNat / 4 = x.toNat := by
  have hb := b.isLt
  rw [← BitVec.toNat_inj, BitVec.extractLsb'_toNat, Nat.shiftRight_eq_div_pow]
  omega

theorem top4_eq_iff {b : Byte} {x : BitVec 4} : b.extractLsb' 4 4 = x ↔ b.toNat / 16 = x.toNat := by
  have hb := b.isLt
  rw [← BitVec.toNat_inj, BitVec.extractLsb'_toNat, Nat.shiftRight_eq_div_pow]
  omega

theorem classify_eq_rm_iff_toNat {c : Config} {b : Byte} :
    classify c b = .rm ↔ b.toNat / 4 = c.opcRr6.toNat := by
  rw [classify_eq_rm, top6_eq_iff]

theorem classify_eq_imm_iff_toNat {c : Config} {b : Byte} :
    classify c b = .imm ↔ b.toNat / 4 ≠ c.opcRr6.toNat ∧ b.toNat / 16 = c.opcImm4.toNat := by
  rw [classify_eq_imm, Ne, top6_eq_iff, top4_eq_iff]

theorem classify_eq_unsupported_iff_toNat {c : Config} {b : Byte} :
    classify c b = .unsupported ↔ b.toNat / 4 ≠ c.opcRr6.toNat ∧ b.toNat / 16 ≠ c.opcImm4.toNat := by
  rw [classify_eq_unsupported, Ne, Ne, top6_eq_iff, top4_eq_iff]

/-- Settles O4: the three clauses exclude each other, and disjoint sets leave no byte to the first two alike. -/
theorem classifierFirstMatchWins : Obligations.ClassifierFirstMatchWins := by
  unfold Obligations.ClassifierFirstMatchWins
  exact ⟨fun c b => ⟨classify_eq_rm.2, fun hrm himm => classify_eq_imm.2 ⟨hrm, himm⟩,
      fun hrm himm => classify_eq_unsupported.2 ⟨hrm, himm⟩⟩,
    rfl, rfl, rfl, rfl, rfl, fun c b hdisj ⟨hrm, himm⟩ => hdisj.not_rm himm hrm, by decide, by decide⟩

theorem classify_default_eq_rm {b : Byte} :
    classify Config.default b = .rm ↔ 0x88 ≤ b.toNat ∧ b.toNat ≤ 0x8B := by
  have hrr6 : Config.default.opcRr6.toNat = 34 := rfl
  rw [classify_eq_rm_iff_toNat, hrr6]
  omega

theorem classify_default_eq_imm {b : Byte} :
    classify Config.default b = .imm ↔ 0xB0 ≤ b.toNat ∧ b.toNat ≤ 0xBF := by
  have hrr6 : Config.default.opcRr6.toNat = 34 := rfl
  have himm4 : Config.default.opcImm4.toNat = 11 := rfl
  rw [classify_eq_imm_iff_toNat, hrr6, himm4]
  omega

/-- The word flag of format `IMM` is bit 3 of the byte (30_encoding.md R87). -/
theorem immW_eq_true_iff {b : Byte} : immW b = true ↔ 8 ≤ b.toNat % 16 := by
  revert b
  decide

theorem toNat_immReg (b : Byte) : (immReg b).toNat = b.toNat % 8 := by
  rw [immReg, BitVec.extractLsb'_toNat, Nat.shiftRight_zero]

theorem classify_default_eq_unsupported {b : Byte} :
    classify Config.default b = .unsupported ↔ b.toNat ∉ Finset.Icc 0x88 0x8B ∪ Finset.Icc 0xB0 0xBF := by
  simp only [Finset.mem_union, Finset.mem_Icc, ← classify_default_eq_rm, ← classify_default_eq_imm]
  cases classify Config.default b <;> decide

/-- Format `RM` has 4 of the 256 first bytes and format `IMM` 16 others. -/
theorem countP_unsupported_default :
    (List.range 256).countP (fun n => decide (classify Config.default (BitVec.ofNat 8 n) = .unsupported)) = 236 := by
  have hbytes : (Finset.range 256).filter (fun n => classify Config.default (BitVec.ofNat 8 n) = .unsupported) =
      Finset.range 256 \ (Finset.Icc 0x88 0x8B ∪ Finset.Icc 0xB0 0xBF) := by
    rw [Finset.sdiff_eq_filter]
    refine Finset.filter_congr fun n hn => ?_
    rw [classify_default_eq_unsupported, BitVec.toNat_ofNat, Nat.mod_eq_of_lt (Finset.mem_range.1 hn)]
  rw [List.countP_eq_length_filter]
  refine (congrArg Finset.card hbytes).trans ?_
  rw [Finset.card_sdiff_of_subset (by decide), Finset.card_union_of_disjoint (by decide), Finset.card_range,
    Nat.card_Icc, Nat.card_Icc]

theorem div_eq_iff_exists_add {n m q : Nat} (hm : 0 < m) : n / m = q ↔ ∃ k, k < m ∧ n = m * q + k := by
  constructor
  · rintro rfl
    exact ⟨n % m, Nat.mod_lt n hm, (Nat.div_add_mod n m).symm⟩
  · rintro ⟨k, hk, rfl⟩
    rw [Nat.mul_add_div hm, Nat.div_eq_of_lt hk, Nat.add_zero]

/-- Settles O5: the classes by the byte's number, at the defaults' numbers 34 and 11. -/
theorem firstByteMap : Obligations.FirstByteMap := by
  unfold Obligations.FirstByteMap
  refine ⟨fun b => ⟨classify_default_eq_rm, classify_default_eq_imm, fun himm => ⟨?_, toNat_immReg b⟩⟩,
    ⟨rfl, rfl⟩, ⟨rfl, rfl⟩, ⟨rfl, rfl⟩, ⟨rfl, rfl⟩, countP_unsupported_default, fun c b => ?_⟩
  · obtain ⟨hlow, hhigh⟩ := classify_default_eq_imm.1 himm
    rw [immW_eq_true_iff]
    omega
  · rw [Ne, classify_eq_unsupported_iff_toNat, not_and_or, not_ne_iff, not_ne_iff,
      div_eq_iff_exists_add (by decide), div_eq_iff_exists_add (by decide)]

/-! ## What a row's meaning does, and its frame (R140; 42_mov_rm_reg.md R150; 43_mov_reg_imm.md R190) -/

/-- Settles O31: the meaning is the error's entry after one octet, and it is what `decode` finds whatever follows. -/
theorem unsupportedConsumesOneOctet : Obligations.UnsupportedConsumesOneOctet := by
  unfold Obligations.UnsupportedConsumesOneOctet
  refine fun b s => ⟨rfl, fun hs he h0 hc => ?_⟩
  rw [step_of_decode_ok hs he (fetchOctets_of_one h0 ▸ decode_of_unsupported hc _)]
  rfl

/-- A meaning emits its row's event, whatever the state (10_state.md R22). -/
theorem exec_trace {i : Instr} {s t : State} (h : exec i s = .next t) :
    ∃ e, eventOf i = some e ∧ t.trace = s.trace ++ [e] := by
  cases i <;> cases h <;> exact ⟨_, rfl, rfl⟩

/-- Only the catch-all row sets `unsup_seen` (60_exceptions.md R236). -/
theorem exec_unsupSeen {i : Instr} {s t : State} (hi : i.isSupported = true) (h : exec i s = .next t) :
    t.unsupSeen = s.unsupSeen := by
  cases i
  case unsupported => cases hi
  all_goals
    cases h
    rfl

/-- What no supported row's meaning changes. -/
theorem exec_frame {i : Instr} {s t : State} (hi : i.isSupported = true) (h : exec i s = .next t) :
    t.unsupSeen = s.unsupSeen ∧ t.eosFault = s.eosFault ∧ t.cfg = s.cfg ∧ t.source = s.source ∧
      (∀ n, t.source.octet n = s.source.octet n) ∧ ∃ e, t.trace = s.trace ++ [e] := by
  obtain ⟨u, e, hu, hcfg, hsrc, heos, -, -, htr⟩ := exec_next i s
  obtain rfl := Host.Outcome.next.inj (hu.symm.trans h)
  exact ⟨exec_unsupSeen hi h, heos, hcfg, hsrc, fun n => by rw [hsrc], e, htr⟩

/-- Settles O32: the frame of every supported row; and these six latch the opcode and the mode byte only. -/
theorem shortRmFrame : Obligations.ShortRmFrame := by
  unfold Obligations.ShortRmFrame
  intro w reg rm d8 s t h
  refine ⟨?_, ?_⟩
  · obtain ⟨size, o, m, i, rfl⟩ : ∃ size o m i, completeRm size o m i s = t := by
      obtain h | h | h | h | h | h := h <;> exact ⟨_, _, _, _, Host.Outcome.next.inj h⟩
    rw [completeRm_lo]
  · obtain h | h | h | h | h | h := h <;> exact exec_frame rfl h

/-- Settles O33: the frame of every supported row. -/
theorem longRmFrame : Obligations.LongRmFrame := by
  unfold Obligations.LongRmFrame
  intro w reg rm v s t h
  obtain h | h | h | h := h <;> exact exec_frame rfl h

/-- Settles O34: the frame of every supported row; these two latch no mode byte, and the byte row no low octet. -/
theorem immFrame : Obligations.ImmFrame := by
  unfold Obligations.ImmFrame
  intro reg d8 d16 s t
  refine ⟨fun h => ?_, fun h => ?_⟩
  · cases h
    rfl
  · obtain h | h := h <;> exact ⟨by cases h; rfl, exec_frame rfl h⟩

/-- Settles O36: the step's branch for an instruction that `decode` finds. -/
theorem stepRunsDecodedInstruction : Obligations.StepRunsDecodedInstruction := by
  unfold Obligations.StepRunsDecodedInstruction
  intro s i rest hs he hd _
  exact step_of_decode_ok hs he hd

/-! ## The small step, arm by arm (R140) -/

section
variable {s : State} {b : Byte}

theorem takeByte_fetch_rm (hs : s.st = .fetch) (hc : classify s.cfg b = .rm) :
    takeByte b s = (s.latchOpc b).goto .mode := by
  simp [takeByte, hs, hc]

theorem takeByte_fetch_imm (hs : s.st = .fetch) (hc : classify s.cfg b = .imm) :
    takeByte b s = (s.latchOpc b).goto .immLo := by
  simp [takeByte, hs, hc]

theorem takeByte_fetch_unsupported (hs : s.st = .fetch) (hc : classify s.cfg b = .unsupported) :
    takeByte b s = raiseUnsupported b s := by
  simp [takeByte, hs, hc]

theorem takeByte_mode_noDisp (hs : s.st = .mode) (hn : ndisp (modField b) (rmField b) = 0) :
    takeByte b s = (s.latchModb b).complete (buildRm s.opc b none) := by
  simp [takeByte, hs, hn]

theorem takeByte_mode_disp (hs : s.st = .mode) (hn : ndisp (modField b) (rmField b) ≠ 0) :
    takeByte b s = (s.latchModb b).goto .dispLo := by
  simp [takeByte, hs, hn]

theorem takeByte_dispLo_last (hs : s.st = .dispLo) (hn : ndisp (modField s.modb) (rmField s.modb) = 1) :
    takeByte b s = s.complete (buildRm s.opc s.modb (some (zext16 b))) := by
  simp [takeByte, hs, hn]

theorem takeByte_dispLo_more (hs : s.st = .dispLo) (hn : ndisp (modField s.modb) (rmField s.modb) ≠ 1) :
    takeByte b s = (s.latchLo b).goto .dispHi := by
  simp [takeByte, hs, hn]

theorem takeByte_dispHi (hs : s.st = .dispHi) :
    takeByte b s = s.complete (buildRm s.opc s.modb (some (hiLo b s.lo))) := by
  simp [takeByte, hs]

theorem takeByte_immLo_byte (hs : s.st = .immLo) (hw : immW s.opc = false) :
    takeByte b s = s.complete (buildImm s.opc (zext16 b)) := by
  simp [takeByte, hs, hw]

theorem takeByte_immLo_word (hs : s.st = .immLo) (hw : immW s.opc = true) :
    takeByte b s = (s.latchLo b).goto .immHi := by
  simp [takeByte, hs, hw]

theorem takeByte_immHi (hs : s.st = .immHi) : takeByte b s = s.complete (buildImm s.opc (hiLo b s.lo)) := by
  simp [takeByte, hs]

theorem takeEos_fetch (hs : s.st = .fetch) : takeEos s = topLevelEnd s := by
  simp [takeEos, hs]

theorem takeEos_inside (hin : s.st.inside = true) : takeEos s = raiseEos s := by
  cases hs : s.st <;> simp_all [takeEos, SeqState.inside]

/-- The arm of a `byte` answer is the small step once the cursor has moved. -/
theorem octetStep_of_takeByte {u : State} (he : s.source.ended = false) (ho : s.source.octet s.pos = some b)
    (ht : s.st.terminal = false) (hu : takeByte b (s.advance 1) = u) : octetStep s = .next u :=
  hu ▸ octetStep_byte ht he ho

/-- The arm of an `EOS` answer is the small step once the source is marked. -/
theorem octetStep_of_takeEos {u : State} (he : s.source.ended = false) (ho : s.source.octet s.pos = none)
    (ht : s.st.terminal = false) (hu : takeEos s.markEnded = u) : octetStep s = .next u :=
  hu ▸ octetStep_eos ht he ho

end

/-- UnexpectedEndOfStream under `abort` (60_exceptions.md R236). -/
theorem raiseEos_of_abort {s : State} (hp : s.cfg.eosPolicy = .abort) :
    raiseEos s = ((s.emit .errEos).setEosFault).goto .haltFault := by
  rw [raiseEos, hp]
  rfl

/-- Settles O38: the arm of each answer in each state. -/
theorem octetStepArms : Obligations.OctetStepArms := by
  unfold Obligations.OctetStepArms
  intro s he hp
  have ht {q : SeqState} (hq : q.terminal = false) (hs : s.st = q) : s.st.terminal = false := hs ▸ hq
  refine ⟨fun b ho => ⟨?_, ?_, ?_, ?_, ?_, ?_, ?_, ?_, ?_, ?_, ?_⟩, fun ho => ⟨?_, ?_⟩, ?_⟩
  · exact fun hs hc => octetStep_of_takeByte he ho (ht rfl hs) (takeByte_fetch_rm hs hc)
  · exact fun hs hc => octetStep_of_takeByte he ho (ht rfl hs) (takeByte_fetch_imm hs hc)
  · exact fun hs hc => octetStep_of_takeByte he ho (ht rfl hs) (takeByte_fetch_unsupported hs hc)
  · exact fun hs hn => octetStep_of_takeByte he ho (ht rfl hs) (takeByte_mode_noDisp hs hn)
  · exact fun hs hn => octetStep_of_takeByte he ho (ht rfl hs) (takeByte_mode_disp hs hn)
  · exact fun hs hn => octetStep_of_takeByte he ho (ht rfl hs) (takeByte_dispLo_last hs hn)
  · exact fun hs hn => octetStep_of_takeByte he ho (ht rfl hs) (takeByte_dispLo_more hs hn)
  · exact fun hs => octetStep_of_takeByte he ho (ht rfl hs) (takeByte_dispHi hs)
  · exact fun hs hw => octetStep_of_takeByte he ho (ht rfl hs) (takeByte_immLo_byte hs hw)
  · exact fun hs hw => octetStep_of_takeByte he ho (ht rfl hs) (takeByte_immLo_word hs hw)
  · exact fun hs => octetStep_of_takeByte he ho (ht rfl hs) (takeByte_immHi hs)
  · exact fun hs => octetStep_of_takeEos he ho (ht rfl hs) (takeEos_fetch hs)
  · intro hs
    have hin : s.st.inside = true := by
      obtain hs | hs | hs | hs | hs := hs <;> rw [hs] <;> rfl
    exact octetStep_of_takeEos he ho (SeqState.not_terminal_of_inside hin)
      ((takeEos_inside (s := s.markEnded) hin).trans (raiseEos_of_abort hp))
  · intro hs t h
    obtain ⟨hnot, -⟩ := octetStep_cases h
    obtain hs | hs := hs <;> rw [hs] at hnot <;> cases hnot

/-- Settles O39: the two answers, and one event exactly when the attempt is over. -/
theorem octetStepConsumesAtMostOne : Obligations.OctetStepConsumesAtMostOne := by
  unfold Obligations.OctetStepConsumesAtMostOne
  intro s t h
  refine ⟨?_, octetStep_trace h⟩
  obtain ⟨-, -, ⟨b, ho, rfl⟩ | ⟨ho, rfl⟩⟩ := octetStep_cases h
  · exact .inl ⟨by simp [ho], takeByte_pos b _, takeByte_source b _⟩
  · exact .inr ⟨ho, takeEos_pos _, by rw [takeEos_source, State.markEnded_source]⟩

/-! ## Where the machine stops (R140; 20_memory.md R52) -/

/-- A source that has answered `EOS` is not asked again. -/
theorem octetStep_of_ended {s : State} (ht : s.st.terminal = false) (he : s.source.ended = true) :
    octetStep s = .refused .requestAfterEos := by
  rw [octetStep_eq_request ht, requestOctet, if_pos he]

/-- An attempt whose source has not answered `EOS` meets no fault and no refusal. -/
theorem finishAttempt_answers {s : State} (k : Nat) (ht : s.st.terminal = false) (he : s.source.ended = false) :
    ∃ t, finishAttempt k s = .next t := by
  induction k generalizing s with
  | zero => exact ⟨s, rfl⟩
  | succ k ih =>
    cases ho : s.source.octet s.pos with
    | none => exact ⟨_, finishAttempt_eos k ht he ho⟩
    | some b =>
      cases hin : (takeByte b (s.advance 1)).st.inside with
      | true =>
        rw [finishAttempt_continue k ht he ho rfl hin]
        exact ih (SeqState.not_terminal_of_inside hin) (by simpa using he)
      | false => exact ⟨_, finishAttempt_done k ht he ho rfl hin⟩

/-- Settles O46: by the small steps, of which the big step is made. -/
theorem whereTheMachineStops : Obligations.WhereTheMachineStops := by
  unfold Obligations.WhereTheMachineStops
  refine fun s => ⟨fun hs => ?_, fun hs => ?_, fun ht he => ?_, fun ht he => ?_⟩
  · simp [step, octetStep, hs]
  · simp [step, octetStep, hs]
  · have hsmall := octetStep_of_ended ht he
    exact ⟨by rw [bigStepIsTheOctetSteps s, finishAttempt_succ, hsmall], hsmall⟩
  · rw [bigStepIsTheOctetSteps s]
    exact finishAttempt_answers 4 ht he

/-! ## A stream of supported instructions (R144) -/

/-- A window of a stream that holds the octets `bs` and then ends is a beginning of `bs`. -/
theorem ByteSource.window_eq_take {src : ByteSource} {bs : List Byte} {n : Nat} (k : Nat)
    (h : ∀ j, src.octet (n + j) = bs[j]?) : src.window n k = bs.take k := by
  induction k generalizing n bs with
  | zero => rfl
  | succ k ih =>
    cases bs with
    | nil => exact ByteSource.window_none (h 0) (k + 1)
    | cons b bs =>
      have htail (j : Nat) : src.octet (n + 1 + j) = bs[j]? := by
        rw [Nat.add_assoc, Nat.add_comm 1 j, h (j + 1), List.getElem?_cons_succ]
      have hhead : src.octet n = some b := h 0
      rw [ByteSource.window_some hhead, ih htail, List.take_succ_cons]

theorem length_encode (c : Config) (i : Instr) : (encode c i).length = i.size := by
  cases i <;> rfl

theorem size_le_maxSize (i : Instr) : i.size ≤ maxSize := by
  cases i <;> simp [Instr.size, maxSize]

/-- Each instruction's event is an `INSTR` event. -/
theorem filterMap_eventOf_of_supported {p : List Instr} (h : ∀ i ∈ p, i.isSupported = true) :
    ∃ js : List Instruction, p.filterMap eventOf = js.map Event.instr ∧ js.length = p.length := by
  induction p with
  | nil => exact ⟨[], rfl, rfl⟩
  | cons i p ih =>
    obtain ⟨hi, hp⟩ := List.forall_mem_cons.1 h
    obtain ⟨j, hj, -⟩ := eventOf_producible hi
    obtain ⟨js, hjs, hlen⟩ := ih hp
    exact ⟨j :: js, by rw [List.filterMap_cons_some hj, hjs, List.map_cons], congrArg Nat.succ hlen⟩

/-- `s` is between instructions and its source holds exactly the octets `bs` from the cursor on and then ends. -/
def State.ReadsFrom (s : State) (bs : List Byte) : Prop :=
  s.st = .fetch ∧ s.source.ended = false ∧ ∀ k, s.source.octet (s.pos + k) = bs[k]?

/-- One step decodes the instruction whose octets come first, and leaves the others. -/
theorem step_of_readsFrom {s : State} {i : Instr} {bs : List Byte} (h : s.ReadsFrom (encode s.cfg i ++ bs))
    (hwf : i.WellFormed s.cfg = true) : ∃ t, step s = .next t ∧ exec i s = .next t ∧ t.ReadsFrom bs := by
  obtain ⟨hs, he, hoct⟩ := h
  have hle : (encode s.cfg i).length ≤ maxSize := length_encode s.cfg i ▸ size_le_maxSize i
  have hf : fetchOctets s = encode s.cfg i ++ bs.take (maxSize - (encode s.cfg i).length) := by
    rw [fetchOctets, ByteSource.window_eq_take maxSize hoct, List.take_append, List.take_of_length_le hle]
  obtain ⟨t, -, ht, -, hsrc, -, hst, hpos, -⟩ := exec_next i s
  have hstep := step_of_decode_ok hs he (hf ▸ decodeOfEncode s.cfg i _ hwf)
  refine ⟨t, hstep.trans ht, ht, hst, hsrc ▸ he, fun k => ?_⟩
  rw [hsrc, hpos, ← length_encode s.cfg i, Nat.add_assoc, hoct, List.getElem?_append_right (Nat.le_add_right _ _),
    Nat.add_sub_cancel_left]

/-- The run over a stream of supported instructions, by induction on them; at the stream's end the step is `END`. -/
theorem run_of_readsFrom {p : List Instr} {s : State} (h : s.ReadsFrom (p.flatMap (encode s.cfg)))
    (hp : ∀ i ∈ p, i.WellFormed s.cfg = true ∧ i.isSupported = true) :
    ∃ t, core.run (p.length + 1) s = .next t ∧ t.trace = s.trace ++ p.filterMap eventOf ++ [.endOfRun] ∧
      t.st = .haltEnd ∧ t.pos = s.pos + (p.flatMap (encode s.cfg)).length ∧
      t.unsupSeen = s.unsupSeen ∧ t.eosFault = s.eosFault := by
  induction p generalizing s with
  | nil =>
    obtain ⟨hs, he, hoct⟩ := h
    have hf : fetchOctets s = [] := ByteSource.window_none (hoct 0) maxSize
    have hstep := step_of_decode_endOfStream hs he (by rw [hf]; rfl)
    exact ⟨attemptAtEnd s, run_succ_of_step hstep, by simp [attemptAtEnd], rfl, rfl, rfl, rfl⟩
  | cons i p ih =>
    obtain ⟨⟨hwf, hi⟩, hrest⟩ := List.forall_mem_cons.1 hp
    rw [List.flatMap_cons] at h ⊢
    obtain ⟨u, hstep, hexec, hu⟩ := step_of_readsFrom h hwf
    obtain ⟨e, hev, htr⟩ := exec_trace hexec
    obtain ⟨hunsup, heos, hcfg, -⟩ := exec_frame hi hexec
    rw [← hcfg] at hu hrest
    obtain ⟨t, hrun, htrace, hst, hpos, htunsup, hteos⟩ := ih hu hrest
    refine ⟨t, (run_succ_of_step hstep).trans hrun, ?_, hst, ?_, htunsup.trans hunsup, hteos.trans heos⟩
    · rw [htrace, htr, List.filterMap_cons_some hev]
      simp
    · rw [hpos, exec_pos hexec, hcfg, List.length_append, length_encode, Nat.add_assoc]

/-- Settles O54: the run over the instructions, each of which emits an `INSTR` event. -/
theorem cleanStreamDecodes : Obligations.CleanStreamDecodes := by
  unfold Obligations.CleanStreamDecodes
  intro p s hs he hp hoct
  obtain ⟨t, hrun, htrace, hst, hpos, hunsup, heos⟩ := run_of_readsFrom ⟨hs, he, hoct⟩ hp
  obtain ⟨js, hjs, hlen⟩ := filterMap_eventOf_of_supported fun i hi => (hp i hi).2
  refine ⟨t, hrun, htrace, by rw [hjs, List.length_map, hlen], fun e hmem => ?_, hst, hpos, hunsup, heos⟩
  obtain ⟨j, -, rfl⟩ := List.mem_map.1 (hjs ▸ hmem)
  exact ⟨j, rfl⟩

end Sys2Proof.Machine
end

section
/-! The operand extractor of format `RM` (42_mov_rm_reg.md): the bases and the displacement of a memory operand, and the
instruction that the meaning of each row emits, built of the row's own octets. -/

namespace Sys2Proof.Machine

/-! ## The pieces of an operand (R158 to R162; 43_mov_reg_imm.md R192) -/

theorem basesOf_direct : basesOf 0b00#2 0b110#3 = [] := rfl

theorem basesOf_not_direct {mod : Mod2} {rm : Code3} (h : ¬ (mod = 0b00#2 ∧ rm = 0b110#3)) :
    basesOf mod rm = bases rm :=
  if_neg fun hdirect => h (isDirect_iff.1 hdirect)

/-- Settles O13: the table's eight lists, and the direct-address case, the one that has no base. -/
theorem baseIndexTable : Obligations.BaseIndexTable := by
  unfold Obligations.BaseIndexTable
  refine ⟨rfl, rfl, rfl, rfl, rfl, rfl, rfl, rfl, ⟨rfl, rfl, rfl, rfl, rfl, rfl, rfl, rfl⟩, fun mod rm => ⟨?_, ?_⟩⟩
  · rintro rfl rfl
    exact basesOf_direct
  · exact basesOf_not_direct

theorem shown_none : shown none = none := rfl

theorem shown_zero : shown (some 0#16) = none := rfl

theorem shown_of_ne_zero {v : Word16} (h : v ≠ 0#16) : shown (some v) = some v := if_neg h

theorem rmOperand_direct (rm : Code3) (w : Bool) (dv : Option Word16) :
    rmOperand 0b11#2 rm w dv = .reg (regIdx rm w) := rfl

theorem rmOperand_memory {mod : Mod2} (h : mod ≠ 0b11#2) (rm : Code3) (w : Bool) (dv : Option Word16) :
    rmOperand mod rm w dv = .mem (basesOf mod rm) (shown dv) := if_neg h

/-- Settles O14: the three values of a displacement, the memory operand, and the examples. -/
theorem shownDisplacement : Obligations.ShownDisplacement := by
  unfold Obligations.ShownDisplacement
  exact ⟨shown_none, shown_zero, fun _ => shown_of_ne_zero, fun _ rm w dv h => rmOperand_memory h rm w dv,
    shown_of_ne_zero (by decide), shown_zero, by decide, rfl⟩

/-- The register code and the size of format `IMM` stand side by side in the opcode byte: its low nibble. -/
theorem regIdx_low_nibble (opc : Byte) : regIdx (opc.extractLsb' 0 3) (opc.getLsbD 3) = opc.extractLsb' 0 4 := by
  revert opc
  decide

theorem buildRm_of_rm_destination {opc : Byte} (h : opcD opc = false) (modb : Byte) (dv : Option Word16) :
    buildRm opc modb dv = ⟨.mov, rmOperand (modField modb) (rmField modb) (opcW opc) dv,
      regOperand (regField modb) (opcW opc)⟩ := by
  rw [buildRm, h]
  rfl

theorem buildRm_of_reg_destination {opc : Byte} (h : opcD opc = true) (modb : Byte) (dv : Option Word16) :
    buildRm opc modb dv = ⟨.mov, regOperand (regField modb) (opcW opc),
      rmOperand (modField modb) (rmField modb) (opcW opc) dv⟩ := by
  rw [buildRm, h]
  rfl

/-- Settles O15: `build_imm` and its register's address; the two kinds of r/m operand, and the two directions. -/
theorem instructionsFromOctets : Obligations.InstructionsFromOctets := by
  unfold Obligations.InstructionsFromOctets
  refine ⟨fun opc v => ⟨rfl, regIdx_low_nibble opc⟩, fun opc modb dv => ⟨fun hm => ?_, fun hm => ?_, rfl, fun hd => ?_,
    fun hd => ?_⟩⟩
  · rw [hm, rmOperand_direct]
  · exact rmOperand_memory hm _ _ _
  · exact buildRm_of_rm_destination hd modb dv
  · exact buildRm_of_reg_destination hd modb dv

/-! ## The instruction a meaning emits is built of the row's octets (R163; 43_mov_reg_imm.md R195) -/

/-- What the meaning of `i` emits in one state is the row's event. -/
theorem eventOf_of_exec {i : Instr} {s t : State} {e : Event} (h : exec i s = .next t)
    (ht : t.trace = s.trace ++ [e]) : eventOf i = some e := by
  obtain ⟨e', hev, htr⟩ := exec_trace h
  obtain rfl : e' = e := by simpa using htr.symm.trans ht
  exact hev

theorem opClass_rmNoDisp (d w : Bool) (mod : Mod2) (reg rm : Code3) : (rmNoDisp d w mod reg rm).opClass = .rm := by
  unfold rmNoDisp
  split <;> rfl

theorem opClass_rmDisp8 (d w : Bool) (reg rm : Code3) (v : Byte) : (rmDisp8 d w reg rm v).opClass = .rm := by
  unfold rmDisp8
  split <;> rfl

theorem opClass_rmTwoOctets (d w : Bool) (mod : Mod2) (reg rm : Code3) (v : Word16) :
    (rmTwoOctets d w mod reg rm v).opClass = .rm := by
  unfold rmTwoOctets
  split <;> rfl

/-- A well-formed instruction's own octets have one of the six shapes, with nothing left over. -/
theorem decodeShape_encode {c : Config} {i : Instr} (h : i.WellFormed c = true) :
    DecodeShape c (encode c i) i [] := by
  have hdec := decodeOfEncode c i [] h
  rw [List.append_nil] at hdec
  exact decodeShape_of_decode hdec

/-- Settles O16, shape by shape: the meaning of each in any state with the parameters `c`. -/
theorem meaningsEmitTheBuiltInstruction : Obligations.MeaningsEmitTheBuiltInstruction := by
  unfold Obligations.MeaningsEmitTheBuiltInstruction
  intro c i hwf hi
  have hshape := decodeShape_encode hwf
  generalize encode c i = os at hshape
  cases hshape with
  | @noDisp b m _ hc hn =>
    refine ⟨b, m, [], rfl, ?_⟩
    rw [opClass_rmNoDisp]
    exact eventOf_of_exec (exec_rmNoDisp_fields (s := State.start c .empty) hc hn) rfl
  | @disp8 b m l _ hc hn =>
    refine ⟨b, m, [l], rfl, ?_⟩
    rw [opClass_rmDisp8]
    exact eventOf_of_exec (exec_rmDisp8_fields (s := State.start c .empty) l hc hn) rfl
  | @twoOctets b m l h _ hc hn =>
    refine ⟨b, m, [l, h], rfl, ?_⟩
    rw [opClass_rmTwoOctets]
    exact eventOf_of_exec (exec_rmTwoOctets_fields (s := State.start c .empty) l h hc hn) rfl
  | @imm8 b l _ hc hw =>
    exact ⟨b, l, [], rfl, eventOf_of_exec (exec_movRegImm8_fields (s := State.start c .empty) l hc hw) rfl⟩
  | @imm16 b l h _ hc hw =>
    exact ⟨b, l, [h], rfl, eventOf_of_exec (exec_movRegImm16_fields (s := State.start c .empty) l h hc hw) rfl⟩
  | unsupported hc => cases hi

/-! ## The stream ends inside an instruction (60_exceptions.md R232, R234) -/

/-- Some but not all of an instruction's octets are a truncated instruction, of whichever shape. -/
theorem decode_take_of_shape {c : Config} {bs : List Byte} {i : Instr} {k : Nat} (h : DecodeShape c bs i [])
    (hi : i.isSupported = true) (hk : 1 ≤ k) (hlt : k < bs.length) : decode c (bs.take k) = .truncated := by
  cases h with
  | noDisp hc hn =>
    match k, hk, hlt with
    | 1, _, _ => exact decode_of_rm hc []
  | disp8 hc hn =>
    match k, hk, hlt with
    | 1, _, _ => exact decode_of_rm hc []
    | 2, _, _ => exact (decode_of_rm hc _).trans (decodeRm_no_displacement_octet (by simp [hn]))
  | @twoOctets b m l h _ hc hn =>
    match k, hk, hlt with
    | 1, _, _ => exact decode_of_rm hc []
    | 2, _, _ => exact (decode_of_rm hc _).trans (decodeRm_no_displacement_octet (by simp [hn]))
    | 3, _, _ => exact (decode_of_rm hc _).trans (decodeRm_no_high_octet hn l)
  | @imm8 b l _ hc hw =>
    match k, hk, hlt with
    | 1, _, _ => exact (decode_of_imm hc []).trans (decodeImm_nil b)
  | @imm16 b l h _ hc hw =>
    match k, hk, hlt with
    | 1, _, _ => exact (decode_of_imm hc []).trans (decodeImm_nil b)
    | 2, _, _ => exact (decode_of_imm hc _).trans (decodeImm_no_high_octet hw l)
  | unsupported hc => cases hi

/-- The step on a stream that ends after `k` octets of an instruction. -/
theorem step_of_truncated_encoding {s : State} {i : Instr} {k : Nat} (hwf : i.WellFormed s.cfg = true)
    (hi : i.isSupported = true) (hk : 1 ≤ k) (hlt : k < i.size) (hs : s.st = .fetch) (he : s.source.ended = false)
    (hf : fetchOctets s = (encode s.cfg i).take k) :
    step s = .next (attemptTruncated ((encode s.cfg i).take k) s) :=
  step_of_decode_truncated hs he hf
    (decode_take_of_shape (decodeShape_encode hwf) hi hk (by rwa [length_encode]))

/-- UnexpectedEndOfStream in full, but for what the octets that arrived leave in the latches. -/
theorem attemptTruncated_eq_withLatches (got : List Byte) (s : State) :
    ∃ o m l, attemptTruncated got s = (raiseEos (s.advance got.length).markEnded).withLatches o m l :=
  ⟨_, _, _, State.eq_withLatches_of_view (attemptTruncated_view got s)⟩

section
variable {c : Config} {i : Instr} (hwf : i.WellFormed c = true) (hi : i.isSupported = true)
include hwf hi

theorem raisesEosAfter {k : Nat} (hk : 1 ≤ k) (hlt : k < i.size) : RaisesEosAfter c i k := by
  rintro s rfl hp hs he hf
  have hlen : ((encode s.cfg i).take k).length = k := List.length_take_of_le (by rw [length_encode]; exact hlt.le)
  obtain ⟨o, m, l, ht⟩ := attemptTruncated_eq_withLatches ((encode s.cfg i).take k) s
  rw [hlen, raiseEos_of_abort (s := (s.advance k).markEnded) hp] at ht
  have hstep := step_of_truncated_encoding hwf hi hk hlt hs he hf
  exact ⟨_, hstep.trans (congrArg Host.Outcome.next ht), rfl, rfl, rfl, rfl, rfl⟩

theorem raisesEosAfter_of_size_two (hsize : i.size = 2) : RaisesEosAfter c i 1 :=
  raisesEosAfter hwf hi (by decide) (by omega)

theorem raisesEosAfter_of_size_three (hsize : i.size = 3) : RaisesEosAfter c i 1 ∧ RaisesEosAfter c i 2 :=
  ⟨raisesEosAfter hwf hi (by decide) (by omega), raisesEosAfter hwf hi (by decide) (by omega)⟩

theorem raisesEosAfter_of_size_four (hsize : i.size = 4) :
    RaisesEosAfter c i 1 ∧ RaisesEosAfter c i 2 ∧ RaisesEosAfter c i 3 :=
  ⟨raisesEosAfter hwf hi (by decide) (by omega), raisesEosAfter hwf hi (by decide) (by omega),
    raisesEosAfter hwf hi (by decide) (by omega)⟩

end

/-! ## The rows one by one (R170 to R179)

The encoding, the length and the next state are what the row's definitions say, written out; the truncation is the
general one at the row's length; and the examples' octets are decoded. -/

/-- A 1-octet displacement is shown as its unsigned value, and dropped when the octet is zero (R156, R159). -/
theorem shown_zext16 (d : Byte) : shown (some (zext16 d)) = if d = 0 then none else some (d.zeroExtend 16) := by
  have hzero : zext16 d = 0#16 ↔ d = 0 := by
    rw [← BitVec.toNat_inj, ← BitVec.toNat_inj, toNat_zext16]
    rfl
  exact ite_congr (propext hzero) (fun _ => rfl) fun _ => rfl

/-- Settles O19: the stream can end after the opcode byte. -/
theorem rmRegDirectMovesRegisterToRegister : Obligations.RmRegDirectMovesRegisterToRegister := by
  unfold Obligations.RmRegDirectMovesRegisterToRegister
  intro w reg rm s
  exact ⟨rfl, rfl, rfl, raisesEosAfter_of_size_two rfl rfl rfl, by decide, by decide⟩

/-- Settles O20: the stream can end after the opcode byte. -/
theorem regRmDirectMovesRegisterToRegister : Obligations.RegRmDirectMovesRegisterToRegister := by
  unfold Obligations.RegRmDirectMovesRegisterToRegister
  intro w reg rm s
  exact ⟨rfl, rfl, rfl, raisesEosAfter_of_size_two rfl rfl rfl, by decide, by decide⟩

/-- Settles O21: `rm` other than 110 is what makes the row well-formed. -/
theorem rmRegMemMovesRegisterToMemory : Obligations.RmRegMemMovesRegisterToMemory := by
  unfold Obligations.RmRegMemMovesRegisterToMemory
  intro w reg rm s hrm
  exact ⟨rfl, rfl, rfl, rfl, raisesEosAfter_of_size_two (decide_eq_true hrm) rfl rfl, by decide, by decide⟩

/-- Settles O22: `rm` other than 110 is what makes the row well-formed. -/
theorem regRmMemMovesMemoryToRegister : Obligations.RegRmMemMovesMemoryToRegister := by
  unfold Obligations.RegRmMemMovesMemoryToRegister
  intro w reg rm s hrm
  exact ⟨rfl, rfl, rfl, rfl, raisesEosAfter_of_size_two (decide_eq_true hrm) rfl rfl, by decide, by decide⟩

/-- Settles O23: the stream can end before each of the three later octets. -/
theorem rmRegAddrMovesRegisterToDirectAddress : Obligations.RmRegAddrMovesRegisterToDirectAddress := by
  unfold Obligations.RmRegAddrMovesRegisterToDirectAddress
  intro w reg addr s
  obtain ⟨heos1, heos2, heos3⟩ := raisesEosAfter_of_size_four (c := s.cfg) (i := .movRmRegAddr w reg addr) rfl rfl rfl
  exact ⟨rfl, rfl, rfl, heos1, heos2, heos3, by decide, by decide⟩

/-- Settles O24: the stream can end before each of the three later octets. -/
theorem regRmAddrMovesDirectAddressToRegister : Obligations.RegRmAddrMovesDirectAddressToRegister := by
  unfold Obligations.RegRmAddrMovesDirectAddressToRegister
  intro w reg addr s
  obtain ⟨heos1, heos2, heos3⟩ := raisesEosAfter_of_size_four (c := s.cfg) (i := .movRegRmAddr w reg addr) rfl rfl rfl
  exact ⟨rfl, rfl, rfl, heos1, heos2, heos3, by decide, by decide⟩

/-- Settles O25: the displacement is zero exactly when its octet is. -/
theorem rmRegDisp8MovesRegisterToMemory : Obligations.RmRegDisp8MovesRegisterToMemory := by
  unfold Obligations.RmRegDisp8MovesRegisterToMemory
  intro w reg rm d8 s
  obtain ⟨heos1, heos2⟩ := raisesEosAfter_of_size_three (c := s.cfg) (i := .movRmRegDisp8 w reg rm d8) rfl rfl rfl
  rw [← shown_zext16]
  exact ⟨rfl, rfl, rfl, heos1, heos2, by decide, by decide⟩

/-- Settles O26: the displacement is zero exactly when its octet is. -/
theorem regRmDisp8MovesMemoryToRegister : Obligations.RegRmDisp8MovesMemoryToRegister := by
  unfold Obligations.RegRmDisp8MovesMemoryToRegister
  intro w reg rm d8 s
  obtain ⟨heos1, heos2⟩ := raisesEosAfter_of_size_three (c := s.cfg) (i := .movRegRmDisp8 w reg rm d8) rfl rfl rfl
  rw [← shown_zext16]
  exact ⟨rfl, rfl, rfl, heos1, heos2, by decide, by decide, by decide⟩

/-- Settles O27: the stream can end before each of the three later octets. -/
theorem rmRegDisp16MovesRegisterToMemory : Obligations.RmRegDisp16MovesRegisterToMemory := by
  unfold Obligations.RmRegDisp16MovesRegisterToMemory
  intro w reg rm d16 s
  obtain ⟨heos1, heos2, heos3⟩ :=
    raisesEosAfter_of_size_four (c := s.cfg) (i := .movRmRegDisp16 w reg rm d16) rfl rfl rfl
  exact ⟨rfl, rfl, rfl, heos1, heos2, heos3, by decide⟩

/-- Settles O28: the stream can end before each of the three later octets. -/
theorem regRmDisp16MovesMemoryToRegister : Obligations.RegRmDisp16MovesMemoryToRegister := by
  unfold Obligations.RegRmDisp16MovesMemoryToRegister
  intro w reg rm d16 s
  obtain ⟨heos1, heos2, heos3⟩ :=
    raisesEosAfter_of_size_four (c := s.cfg) (i := .movRegRmDisp16 w reg rm d16) rfl rfl rfl
  exact ⟨rfl, rfl, rfl, heos1, heos2, heos3, by decide, by decide, by decide⟩

end Sys2Proof.Machine
end

section
/-! The two rows of format `IMM` (43_mov_reg_imm.md). Where the parameters' opcode sets overlap, an opcode byte of
format `IMM` decodes as one of format `RM`; a stream that ends after it is still truncated. -/

namespace Sys2Proof.Machine

/-! ## The stream ends after an opcode byte of format IMM (60_exceptions.md R234) -/

section
variable {c : Config} {i : Instr}

/-- The exception depends only on the octets that arrived. -/
theorem RaisesEosAfter.of_take_eq {j : Instr} {k : Nat} (hj : RaisesEosAfter c j k)
    (h : (encode c i).take k = (encode c j).take k) : RaisesEosAfter c i k := by
  unfold RaisesEosAfter at hj ⊢
  rwa [h]

/-- An opcode byte of format `RM` is the first octet of a register-direct row, which has two octets. -/
theorem raisesEosAfter_of_rm_opcode {b : Byte} (hc : classify c b = .rm) (h : (encode c i).take 1 = [b]) :
    RaisesEosAfter c i 1 := by
  rw [← rmOpcode_of_classify hc] at h
  cases hd : opcD b with
  | false =>
    rw [hd] at h
    have hrow : RaisesEosAfter c (.movRmRegDirect (opcW b) 0#3 0#3) 1 := raisesEosAfter_of_size_two rfl rfl rfl
    exact hrow.of_take_eq h
  | true =>
    rw [hd] at h
    have hrow : RaisesEosAfter c (.movRegRmDirect (opcW b) 0#3 0#3) 1 := raisesEosAfter_of_size_two rfl rfl rfl
    exact hrow.of_take_eq h

/-- The class of the opcode byte decides which format's row is truncated. -/
theorem raisesEosAfter_of_imm_opcode {w : Bool} {reg : Code3} (h : (encode c i).take 1 = [immOpcode c w reg])
    (hwf : classify c (immOpcode c w reg) = .imm → i.WellFormed c = true) (hi : i.isSupported = true)
    (hsize : 1 < i.size) : RaisesEosAfter c i 1 := by
  by_cases hrm : (immOpcode c w reg).extractLsb' 2 6 = c.opcRr6
  · exact raisesEosAfter_of_rm_opcode (classify_eq_rm.2 hrm) h
  · exact raisesEosAfter (hwf (classify_immOpcode hrm)) hi le_rfl hsize

end

/-! ## The rows one by one (R200, R201) -/

/-- Settles O29: the stream can end after the opcode byte. -/
theorem regImm8MovesByteToRegister : Obligations.RegImm8MovesByteToRegister := by
  unfold Obligations.RegImm8MovesByteToRegister
  intro reg data s
  have heos : RaisesEosAfter s.cfg (.movRegImm8 reg data) 1 :=
    raisesEosAfter_of_imm_opcode rfl (wellFormed_movRegImm8 s.cfg reg data).2 rfl (show 1 < 2 by decide)
  exact ⟨rfl, rfl, toNat_immOpcode Config.default false reg, toNat_regIdx reg false, rfl, heos,
    by decide, by decide, by decide⟩

/-- Settles O30: the row is well-formed, and so still open after two octets, where the opcode sets are disjoint. -/
theorem regImm16MovesWordToRegister : Obligations.RegImm16MovesWordToRegister := by
  unfold Obligations.RegImm16MovesWordToRegister
  intro reg data s
  have hwf := (wellFormed_movRegImm16 s.cfg reg data).2
  have heos1 : RaisesEosAfter s.cfg (.movRegImm16 reg data) 1 :=
    raisesEosAfter_of_imm_opcode rfl hwf rfl (show 1 < 3 by decide)
  have heos2 (hc : s.cfg.Disjoint) : RaisesEosAfter s.cfg (.movRegImm16 reg data) 2 :=
    raisesEosAfter (hwf (classify_immOpcode_of_disjoint hc true reg)) rfl (by decide) (show 2 < 3 by decide)
  have hrom : (regIdx reg true).toNat = 8 + reg.toNat := (toNat_regIdx reg true).trans (Nat.add_comm _ _)
  exact ⟨rfl, rfl, toNat_immOpcode Config.default true reg, hrom, rfl, heos1, heos2,
    by decide, by decide, by decide, by decide, by decide⟩

end Sys2Proof.Machine
end

section
/-! The renderer (44_renderer.md): the decimal numeral, the parts of a memory operand and the text they are joined to, and
from these that every producible instruction's text is a line of the grammar and is no other instruction's text. -/

namespace Sys2Proof.Machine

/-! ## The decimal numeral (R213) -/

/-- A numeral's digit is a digit of the grammar, has the value it stands for, and is `0` only for zero. -/
theorem digitChar_spec : ∀ n < 10,
    isDigit (digitChar n) = true ∧ (digitChar n).toNat - 48 = n ∧ (digitChar n = '0' → n = 0) := by decide

theorem all_isDigit_decimal (k n : Nat) : (decimal k n).all isDigit = true := by
  fun_induction decimal k n with
  | case1 => rfl
  | case2 k n h => simp [(digitChar_spec n h).1]
  | case3 k n h ih => simp [ih, (digitChar_spec (n % 10) (n.mod_lt (by decide))).1]

theorem length_decimal_le (k n : Nat) : (decimal k n).length ≤ k := by
  fun_induction decimal k n with
  | case1 => simp
  | case2 k n h => simp
  | case3 k n h ih => simpa using ih

/-- One more digit at the end. -/
theorem digitsValue_append_singleton (t : Text) (ch : Char) :
    digitsValue (t ++ [ch]) = 10 * digitsValue t + (ch.toNat - 48) := by
  simp [digitsValue]

/-- With enough digits nothing of the value is lost. -/
theorem digitsValue_decimal {k n : Nat} (hn : n < 10 ^ k) : digitsValue (decimal k n) = n := by
  fun_induction decimal k n with
  | case1 n => exact (Nat.lt_one_iff.1 hn).symm
  | case2 k n h => simpa [digitsValue] using (digitChar_spec n h).2.1
  | case3 k n h ih =>
    have hdigit := (digitChar_spec (n % 10) (n.mod_lt (by decide))).2.1
    have hhead := ih (by rw [pow_succ] at hn; omega)
    rw [digitsValue_append_singleton, hhead, hdigit, Nat.div_add_mod]

/-- No leading zero: what is left when the division by ten stops is not zero. -/
theorem decimal_eq_cons {k n : Nat} (h0 : n ≠ 0) (hn : n < 10 ^ k) :
    ∃ d ds, decimal k n = d :: ds ∧ d ≠ '0' := by
  fun_induction decimal k n with
  | case1 n => exact absurd (Nat.lt_one_iff.1 hn) h0
  | case2 k n h => exact ⟨_, [], rfl, fun hz => h0 ((digitChar_spec n h).2.2 hz)⟩
  | case3 k n h ih =>
    obtain ⟨d, ds, ht, hd⟩ := ih (by omega) (by rw [pow_succ] at hn; omega)
    exact ⟨d, ds ++ [digitChar (n % 10)], by rw [ht, List.cons_append], hd⟩

theorem toNat_lt_five_digits (v : Word16) : v.toNat < 10 ^ 5 := v.isLt.trans (by decide)

theorem dec_zero : dec 0#16 = ['0'] := rfl

theorem all_isDigit_dec (v : Word16) : (dec v).all isDigit = true := all_isDigit_decimal 5 v.toNat

@[simp] theorem digitsValue_dec (v : Word16) : digitsValue (dec v) = v.toNat :=
  digitsValue_decimal (toNat_lt_five_digits v)

theorem dec_eq_cons {v : Word16} (hv : v ≠ 0#16) : ∃ d ds, dec v = d :: ds ∧ d ≠ '0' :=
  decimal_eq_cons (fun h => hv (BitVec.eq_of_toNat_eq h)) (toNat_lt_five_digits v)

theorem dec_ne_nil (v : Word16) : dec v ≠ [] := by
  by_cases hv : v = 0#16
  · simp [hv, dec_zero]
  · obtain ⟨d, ds, h, -⟩ := dec_eq_cons hv
    simp [h]

/-- The numeral determines the value. -/
theorem dec_injective : Function.Injective dec := by
  intro v w h
  apply BitVec.eq_of_toNat_eq
  rw [← digitsValue_dec v, h, digitsValue_dec]

/-- Settles O57: the numeral's digits, at most as many as asked for, a first digit other than `0`, and the value. -/
theorem decimalNumeral : Obligations.DecimalNumeral := by
  unfold Obligations.DecimalNumeral
  refine ⟨dec_zero, fun v => ⟨all_isDigit_dec v, List.length_pos_iff.2 (dec_ne_nil v), length_decimal_le 5 _, ?_,
    digitsValue_dec v⟩⟩
  intro hv
  obtain ⟨d, ds, h, hd⟩ := dec_eq_cons hv
  simpa [h] using hd

/-! ## Registers and numbers as text (R211, R212) -/

/-- The 16 names are pairwise distinct texts. -/
theorem romText_injective {m n : RegIdx} (h : (rom m).text = (rom n).text) : m = n := by
  have hnodup : (romTable.map RegName.text).Nodup := by decide
  exact rom_injective (List.inj_on_of_nodup_map hnodup (List.getElem_mem _) (List.getElem_mem _) h)

theorem romText_alphanum (n : RegIdx) : (rom n).text.all Char.isAlphanum = true := by
  revert n
  decide

theorem romText_ne_nil (n : RegIdx) : (rom n).text ≠ [] := by
  revert n
  decide

theorem romText_not_digits (n : RegIdx) : (rom n).text.all isDigit = false := by
  revert n
  decide

/-- A register's name is not a number. -/
theorem romText_ne_dec (n : RegIdx) (v : Word16) : (rom n).text ≠ dec v := by
  intro h
  have hdigits := all_isDigit_dec v
  rw [← h, romText_not_digits] at hdigits
  cases hdigits

theorem isAlphanum_of_isDigit {ch : Char} (h : isDigit ch = true) : ch.isAlphanum = true := by
  have hall : ['0', '1', '2', '3', '4', '5', '6', '7', '8', '9'].all Char.isAlphanum = true := by decide
  exact List.all_eq_true.1 hall ch (List.contains_iff_mem.1 h)

theorem dec_alphanum (v : Word16) : (dec v).all Char.isAlphanum = true :=
  List.all_eq_true.2 fun ch h => isAlphanum_of_isDigit (List.all_eq_true.1 (all_isDigit_dec v) ch h)

/-- A text of letters and digits has none of the renderer's separators in it. -/
theorem not_mem_of_alphanum {t : Text} (h : t.all Char.isAlphanum = true) {x : Char} (hx : x.isAlphanum = false) :
    x ∉ t := by
  intro hmem
  rw [List.all_eq_true.1 h x hmem] at hx
  cases hx

/-! ## The parts of a memory operand and their join (R214) -/

@[simp] theorem memParts_cons (b : RegIdx) (bs : List RegIdx) (disp : Option Word16) :
    memParts (b :: bs) disp = (rom b).text :: memParts bs disp := rfl

@[simp] theorem memParts_nil_some (v : Word16) : memParts [] (some v) = [dec v] := rfl

@[simp] theorem memParts_nil_none : memParts [] none = [] := rfl

/-- A part is the name of a base or the numeral of the displacement. -/
theorem mem_memParts {bs : List RegIdx} {disp : Option Word16} {p : Text} :
    p ∈ memParts bs disp ↔ (∃ b ∈ bs, p = (rom b).text) ∨ ∃ v, disp = some v ∧ p = dec v := by
  induction bs with
  | nil => cases disp <;> simp
  | cons b bs ih => simp [ih, or_assoc]

theorem memParts_eq_nil {bs : List RegIdx} {disp : Option Word16} (h : memParts bs disp = []) :
    bs = [] ∧ disp = none := by
  cases bs with
  | nil => cases disp <;> simp_all
  | cons b bs => cases h

/-- The parts determine the bases, which are the names, and the displacement, which is the number. -/
theorem memParts_injective {bs bs' : List RegIdx} {disp disp' : Option Word16}
    (h : memParts bs disp = memParts bs' disp') : bs = bs' ∧ disp = disp' := by
  induction bs generalizing bs' with
  | nil =>
    cases bs' with
    | nil => cases disp <;> cases disp' <;> simp_all [dec_injective.eq_iff]
    | cons b' bs' => cases disp <;> simp [(romText_ne_dec _ _).symm] at h
  | cons b bs ih =>
    cases bs' with
    | nil => cases disp' <;> simp [romText_ne_dec] at h
    | cons b' bs' =>
      obtain ⟨hname, hrest⟩ := List.cons.inj h
      obtain ⟨rfl, rfl⟩ := ih hrest
      exact ⟨by rw [romText_injective hname], rfl⟩

theorem memParts_alphanum {bs : List RegIdx} {disp : Option Word16} {p : Text} (h : p ∈ memParts bs disp) :
    p.all Char.isAlphanum = true := by
  obtain ⟨b, -, rfl⟩ | ⟨v, -, rfl⟩ := mem_memParts.1 h
  · exact romText_alphanum b
  · exact dec_alphanum v

/-- The parts of a joined text: what stands between its spaces, without the plus signs. -/
def splitPlus (t : Text) : List Text := (t.splitOn ' ').filter (· ≠ ['+'])

theorem ne_plus_of_alphanum {p : Text} (h : p.all Char.isAlphanum = true) : p ≠ ['+'] := by
  rintro rfl
  exact absurd h (by decide)

/-- A part is split off whole: its letters and digits are no space and no plus sign. -/
theorem splitPlus_part {p : Text} (h : p.all Char.isAlphanum = true) : splitPlus p = [p] := by
  have hspace : ' ' ∉ p := not_mem_of_alphanum h (by decide)
  simp [splitPlus, List.splitOn_eq_singleton hspace, ne_plus_of_alphanum h]

theorem splitPlus_append {p : Text} (h : p.all Char.isAlphanum = true) (t : Text) :
    splitPlus (p ++ [' ', '+', ' '] ++ t) = p :: splitPlus t := by
  have hspace : ' ' ∉ p := not_mem_of_alphanum h (by decide)
  have hsplit : (p ++ ' ' :: (['+'] ++ ' ' :: t)).splitOn ' ' = p :: ['+'] :: t.splitOn ' ' := by
    rw [List.splitOn_append_cons_self_of_not_mem hspace, List.splitOn_append_cons_self_of_not_mem (by decide)]
  rw [List.append_assoc]
  exact (congrArg (List.filter _) hsplit).trans (by simp [splitPlus, ne_plus_of_alphanum h])

/-- Splitting undoes joining. -/
theorem splitPlus_joinPlus {ps : List Text} (hne : ps ≠ []) (h : ∀ p ∈ ps, p.all Char.isAlphanum = true) :
    splitPlus (joinPlus ps) = ps := by
  fun_induction joinPlus ps with
  | case1 => exact absurd rfl hne
  | case2 p => exact splitPlus_part (h p (.head _))
  | case3 p q ps ih =>
    rw [splitPlus_append (h p (.head _)), ih (by simp) fun r hr => h r (.tail _ hr)]

/-! ## The text of a memory operand, with its empty case (R214, R215) -/

/-- With no base and no displacement the text is the parameter's. -/
@[simp] theorem renderOp_mem_empty (c : Config) : renderOp c (.mem [] none) = c.emptyCalcText := rfl

theorem renderOp_mem_base (c : Config) (b : RegIdx) (bs : List RegIdx) (disp : Option Word16) :
    renderOp c (.mem (b :: bs) disp) = ['['] ++ joinPlus (memParts (b :: bs) disp) ++ [']'] := rfl

/-- Any part at all, and the text is the parts in brackets. -/
theorem renderOp_mem_of_parts (c : Config) {bs : List RegIdx} {disp : Option Word16} (h : memParts bs disp ≠ []) :
    renderOp c (.mem bs disp) = ['['] ++ joinPlus (memParts bs disp) ++ [']'] := by
  cases bs with
  | cons b bs => exact renderOp_mem_base c b bs disp
  | nil =>
    cases disp with
    | none => exact absurd memParts_nil_none h
    | some v => rfl

/-- Settles O56: each shape's text is its parts in order. -/
theorem renderedText : Obligations.RenderedText := by
  unfold Obligations.RenderedText
  refine ⟨fun _ _ _ => rfl, fun _ _ => rfl, fun _ _ => rfl, fun c x y v => ?_, rfl, by decide⟩
  refine ⟨rfl, ?_, ?_, ?_, rfl, rfl⟩ <;> simp [renderOp_mem_base, joinPlus]

/-! ## Every text is a line of the grammar (R218) -/

theorem grammarNumber_dec (v : Word16) : GrammarNumber (dec v) := by
  refine ⟨?_, by rw [digitsValue_dec]; exact Nat.le_of_lt_succ v.isLt⟩
  by_cases hv : v = 0#16
  · exact .inl (by rw [hv, dec_zero])
  · obtain ⟨d, ds, h, hd⟩ := dec_eq_cons hv
    have hdigits := all_isDigit_dec v
    rw [h, List.all_cons, Bool.and_eq_true] at hdigits
    exact .inr ⟨d, ds, h, hdigits.1, hd, hdigits.2⟩

/-- The bases of the table are `bx`, `bp`, `si` and `di`. -/
theorem grammarTerm_base {rm : Code3} {b : RegIdx} (h : b ∈ bases rm) : GrammarTerm (rom b).text := by
  have hall : ∀ rm : Code3, ∀ b ∈ bases rm, b = 11#4 ∨ b = 13#4 ∨ b = 14#4 ∨ b = 15#4 := by decide
  obtain rfl | rfl | rfl | rfl := hall rm b h
  · exact .inl rfl
  · exact .inr (.inl rfl)
  · exact .inr (.inr (.inl rfl))
  · exact .inr (.inr (.inr (.inl rfl)))

theorem grammarTerm_of_mem_memParts {bs : List RegIdx} {disp : Option Word16} (h : MemProducible bs disp) {p : Text}
    (hp : p ∈ memParts bs disp) : GrammarTerm p := by
  obtain ⟨b, hb, rfl⟩ | ⟨v, -, rfl⟩ := mem_memParts.1 hp
  · obtain rfl | ⟨rm, rfl⟩ := h.1
    · cases hb
    · exact grammarTerm_base hb
  · exact .inr (.inr (.inr (.inr (grammarNumber_dec v))))

theorem grammarMem_renderOp (c : Config) {bs : List RegIdx} {disp : Option Word16} (h : MemProducible bs disp) :
    GrammarMem c (renderOp c (.mem bs disp)) := by
  cases hp : memParts bs disp with
  | nil =>
    obtain ⟨rfl, rfl⟩ := memParts_eq_nil hp
    exact .inr rfl
  | cons p ps =>
    refine .inl ⟨p, ps, fun q hq => grammarTerm_of_mem_memParts h (hp ▸ hq), ?_⟩
    rw [renderOp_mem_of_parts c (by simp [hp]), hp]

theorem grammarOperand_renderOp (c : Config) {op : Operand} (h : op.Producible) :
    GrammarOperand c (renderOp c op) := by
  cases op with
  | reg n => exact .inl ⟨n, rfl⟩
  | imm v => exact .inr (.inl (grammarNumber_dec v))
  | mem bs disp => exact .inr (.inr (grammarMem_renderOp c h))

/-- Settles O59: the two operands of a producible instruction are operands of the grammar. -/
theorem renderedLineIsInGrammar : Obligations.RenderedLineIsInGrammar := by
  unfold Obligations.RenderedLineIsInGrammar
  intro c i hi
  obtain ⟨h1, h2⟩ := hi.operands
  exact ⟨_, _, grammarOperand_renderOp c h1, grammarOperand_renderOp c h2, rfl⟩

/-! ## The text determines the instruction (R216) -/

/-- No part is empty, and none is the number 0, which a producible operand does not show. -/
theorem ne_of_mem_memParts {bs : List RegIdx} {disp : Option Word16} (h : MemProducible bs disp) {p : Text}
    (hp : p ∈ memParts bs disp) : p ≠ [] ∧ p ≠ ['0'] := by
  rw [← dec_zero]
  obtain ⟨b, -, rfl⟩ | ⟨v, rfl, rfl⟩ := mem_memParts.1 hp
  · exact ⟨romText_ne_nil b, romText_ne_dec b 0#16⟩
  · exact ⟨dec_ne_nil v, fun hv => h.2 (congrArg some (dec_injective hv))⟩

/-- Joining adds only spaces and plus signs. -/
theorem not_mem_joinPlus {ps : List Text} {x : Char} (hspace : x ≠ ' ') (hplus : x ≠ '+') (h : ∀ p ∈ ps, x ∉ p) :
    x ∉ joinPlus ps := by
  fun_induction joinPlus ps with
  | case1 => exact List.not_mem_nil
  | case2 p => exact h p (.head _)
  | case3 p q ps ih =>
    have hrest : x ∉ joinPlus (q :: ps) := ih fun r hr => h r (.tail _ hr)
    simp [hspace, hplus, h p (.head _), hrest]

/-- The one comma of a line is preceded by the first operand. -/
theorem render_eq_comma (c : Config) (i : Instruction) :
    render c i = (['m', 'o', 'v', ' '] ++ renderOp c i.op1) ++ ',' :: (' ' :: renderOp c i.op2) := by
  simp [render, Mnemonic.text]

section
variable {c : Config} (hc : c.emptyCalcText = ['[', ']'] ∨ c.emptyCalcText = ['[', '0', ']'])
include hc

/-- A memory operand with parts is not rendered as the empty one: it would have to have one part, empty or 0. -/
theorem renderOp_mem_ne_empty {bs : List RegIdx} {disp : Option Word16} (h : MemProducible bs disp)
    (hne : memParts bs disp ≠ []) : renderOp c (.mem bs disp) ≠ c.emptyCalcText := by
  obtain ⟨t, ht, he⟩ : ∃ t, (t = [] ∨ t = ['0']) ∧ c.emptyCalcText = ['['] ++ t ++ [']'] :=
    hc.elim (fun he => ⟨[], .inl rfl, he⟩) fun he => ⟨['0'], .inr rfl, he⟩
  intro heq
  rw [renderOp_mem_of_parts c hne, he, List.append_left_inj, List.append_right_inj] at heq
  have hparts : splitPlus t = memParts bs disp := by
    rw [← heq, splitPlus_joinPlus hne fun _ => memParts_alphanum]
  have hmem : t ∈ memParts bs disp := by
    rw [← hparts]
    obtain rfl | rfl := ht
    · decide
    · decide
  obtain ⟨hnil, hzero⟩ := ne_of_mem_memParts h hmem
  exact ht.elim hnil hzero

theorem renderOp_mem_injective {bs bs' : List RegIdx} {disp disp' : Option Word16} (h : MemProducible bs disp)
    (h' : MemProducible bs' disp') (heq : renderOp c (.mem bs disp) = renderOp c (.mem bs' disp')) :
    bs = bs' ∧ disp = disp' := by
  apply memParts_injective
  by_cases hp : memParts bs disp = [] <;> by_cases hp' : memParts bs' disp' = []
  · rw [hp, hp']
  · obtain ⟨rfl, rfl⟩ := memParts_eq_nil hp
    exact absurd heq.symm (renderOp_mem_ne_empty hc h' hp')
  · obtain ⟨rfl, rfl⟩ := memParts_eq_nil hp'
    exact absurd heq (renderOp_mem_ne_empty hc h hp)
  · rw [renderOp_mem_of_parts c hp, renderOp_mem_of_parts c hp', List.append_left_inj, List.append_right_inj] at heq
    rw [← splitPlus_joinPlus hp fun _ => memParts_alphanum, heq, splitPlus_joinPlus hp' fun _ => memParts_alphanum]

theorem bracket_mem_renderOp (bs : List RegIdx) (disp : Option Word16) : '[' ∈ renderOp c (.mem bs disp) := by
  by_cases hp : memParts bs disp = []
  · obtain ⟨rfl, rfl⟩ := memParts_eq_nil hp
    obtain he | he := hc <;> simp [he]
  · simp [renderOp_mem_of_parts c hp]

/-- A memory operand's text is no register's and no number's: it has a bracket in it. -/
theorem renderOp_mem_ne_of_alphanum {t : Text} (ht : t.all Char.isAlphanum = true) (bs : List RegIdx)
    (disp : Option Word16) : renderOp c (.mem bs disp) ≠ t := by
  rintro rfl
  exact not_mem_of_alphanum ht (by decide) (bracket_mem_renderOp hc bs disp)

/-- A producible operand's text determines it. -/
theorem renderOp_injective {a b : Operand} (ha : a.Producible) (hb : b.Producible)
    (h : renderOp c a = renderOp c b) : a = b := by
  cases a with
  | reg m =>
    cases b with
    | reg n => exact congrArg _ (romText_injective h)
    | imm v => exact absurd h (romText_ne_dec m v)
    | mem bs disp => exact absurd h.symm (renderOp_mem_ne_of_alphanum hc (romText_alphanum m) bs disp)
  | imm v =>
    cases b with
    | reg n => exact absurd h.symm (romText_ne_dec n v)
    | imm w => exact congrArg _ (dec_injective h)
    | mem bs disp => exact absurd h.symm (renderOp_mem_ne_of_alphanum hc (dec_alphanum v) bs disp)
  | mem bs disp =>
    cases b with
    | reg n => exact absurd h (renderOp_mem_ne_of_alphanum hc (romText_alphanum n) bs disp)
    | imm w => exact absurd h (renderOp_mem_ne_of_alphanum hc (dec_alphanum w) bs disp)
    | mem bs' disp' =>
      obtain ⟨rfl, rfl⟩ := renderOp_mem_injective hc ha hb h
      rfl

theorem comma_not_mem_renderOp (op : Operand) : ',' ∉ renderOp c op := by
  cases op with
  | reg n => exact not_mem_of_alphanum (romText_alphanum n) (by decide)
  | imm v => exact not_mem_of_alphanum (dec_alphanum v) (by decide)
  | mem bs disp =>
    by_cases hp : memParts bs disp = []
    · obtain ⟨rfl, rfl⟩ := memParts_eq_nil hp
      obtain he | he := hc <;> simp [he]
    · have hjoin : ',' ∉ joinPlus (memParts bs disp) :=
        not_mem_joinPlus (by decide) (by decide) fun p hpart =>
          not_mem_of_alphanum (memParts_alphanum hpart) (by decide)
      simp [renderOp_mem_of_parts c hp, hjoin]

/-- The comma determines where the first operand ends and the second begins. -/
theorem render_operands_injective {i j : Instruction} (h : render c i = render c j) :
    renderOp c i.op1 = renderOp c j.op1 ∧ renderOp c i.op2 = renderOp c j.op2 := by
  rw [render_eq_comma, render_eq_comma, List.append_cons_inj_of_notMem] at h
  · obtain ⟨h1, -, h2⟩ := h
    exact ⟨List.append_cancel_left h1, List.tail_eq_of_cons_eq h2⟩
  · simp [comma_not_mem_renderOp hc]
  · simp [comma_not_mem_renderOp hc]

end

/-- Settles O58: a line's two operand texts determine its two operands, and `mov` is the one mnemonic. -/
theorem renderIsInjective : Obligations.RenderIsInjective := by
  unfold Obligations.RenderIsInjective
  intro c i j hc hi hj h
  obtain ⟨hi1, hi2⟩ := hi.operands
  obtain ⟨hj1, hj2⟩ := hj.operands
  obtain ⟨h1, h2⟩ := render_operands_injective hc h
  obtain ⟨⟨⟩, a, b⟩ := i
  obtain ⟨⟨⟩, a', b'⟩ := j
  rw [Instruction.mk.injEq]
  exact ⟨rfl, renderOp_injective hc hi1 hj1 h1, renderOp_injective hc hi2 hj2 h2⟩

end Sys2Proof.Machine
end

section
/-! The two exceptions and the normal end of the stream (60_exceptions.md): what raising each error does, and what the
stream's end is, inside an instruction and between instructions. -/

namespace Sys2Proof.Machine

/-! ## The stream ends inside an instruction (R232) -/

/-- A window that is cut short by the stream's end tells the stream's length. -/
theorem ByteSource.length_of_short_window {src : ByteSource} {n k : Nat} {bs : List Byte} (h : src.window n k = bs)
    (hne : bs ≠ []) (hshort : bs.length < k) : src.length = some (n + bs.length) := by
  induction bs generalizing n k with
  | nil => exact absurd rfl hne
  | cons b bs ih =>
    obtain ⟨hhead, j, rfl, htail⟩ := ByteSource.window_eq_cons h
    have hj : bs.length < j := Nat.lt_of_succ_lt_succ hshort
    cases bs with
    | nil =>
      obtain ⟨j, rfl⟩ := Nat.exists_eq_add_of_lt hj
      obtain ⟨l, hl, hle⟩ := ByteSource.octet_eq_none.1 (ByteSource.window_eq_nil htail)
      have hlt : n < l := (ByteSource.octet_isSome hl).1 ⟨b, hhead⟩
      rw [hl, Nat.le_antisymm hle hlt]
      rfl
    | cons x xs => rw [ih htail (List.cons_ne_nil x xs) hj, Nat.add_right_comm, Nat.add_assoc, ← List.length_cons]

/-- Settles O44: the truncation of O19 to O28 at any length, the stream's length from the octets that were ahead, and
the frame of every step. -/
theorem truncationRaisesEos : Obligations.TruncationRaisesEos := by
  unfold Obligations.TruncationRaisesEos
  intro i k s hwf hi hk hlt hs he hp hf
  obtain ⟨t, hstep, htrace, heos, hunsup, hst, hpos⟩ := raisesEosAfter hwf hi hk hlt s rfl hp hs he hf
  obtain ⟨hcfg, hsrc, -, -⟩ := step_keeps_stream_and_flags hstep
  have hlen : ((encode s.cfg i).take k).length = k := List.length_take_of_le (by rw [length_encode]; exact hlt.le)
  have hne : (encode s.cfg i).take k ≠ [] := List.ne_nil_of_length_pos (by rwa [hlen])
  have hshort : ((encode s.cfg i).take k).length < maxSize := hlen.trans_lt (hlt.trans_le (size_le_maxSize i))
  have hend : s.source.length = some (s.pos + k) := hlen ▸ ByteSource.length_of_short_window hf hne hshort
  refine ⟨t, hstep, htrace, heos, hunsup, hst, hpos, ?_, hcfg, fun n => ?_⟩
  · rw [hsrc, hpos, hend]
  · rw [hsrc, ByteSource.octet_ended]

/-! ## Raising an error (R236, R237) -/

/-- Settles O43: the entry actions are these, and under `abort` the second leads to `HALT_FAULT`. -/
theorem errorEntry : Obligations.ErrorEntry := by
  unfold Obligations.ErrorEntry
  exact fun b s => ⟨rfl, raiseEos_of_abort⟩

/-- Settles O35: the row raises UnsupportedOpcode past its octet (O31), and the error's entry changes none of these. -/
theorem unsupportedFrame : Obligations.UnsupportedFrame := by
  unfold Obligations.UnsupportedFrame
  intro b s t h
  obtain ⟨hexec, -⟩ := unsupportedConsumesOneOctet b s
  obtain rfl := Host.Outcome.next.inj (hexec.symm.trans h)
  exact ⟨rfl, rfl, rfl, rfl, rfl, rfl, fun _ => rfl, .errUnsupported b, rfl⟩

/-! ## The stream's end at a first byte and inside an instruction (R233) -/

theorem step_at_end_of_fetch {s : State} (hs : s.st = .fetch) (he : s.source.ended = false)
    (ho : s.source.octet s.pos = none) : step s = .next (attemptAtEnd s) := by
  have hnothing : fetchOctets s = [] := ByteSource.window_none ho maxSize
  exact step_of_decode_endOfStream hs he (by rw [hnothing]; rfl)

theorem step_at_end_of_inside {s : State} (hin : s.st.inside = true) (he : s.source.ended = false)
    (ho : s.source.octet s.pos = none) : step s = .next (raiseEos s.markEnded) := by
  rw [step_eq_finishAttempt_of_inside hin, finishAttempt_eos 3 (SeqState.not_terminal_of_inside hin) he ho,
    takeEos_inside (s := s.markEnded) hin]

/-- Settles O45: the end at a first byte, and UnexpectedEndOfStream at any other. -/
theorem endOfStreamByState : Obligations.EndOfStreamByState := by
  unfold Obligations.EndOfStreamByState
  intro s he ho
  exact ⟨fun hs => step_at_end_of_fetch hs he ho, fun hin => ⟨_, step_at_end_of_inside hin he ho, rfl, rfl, rfl⟩⟩

end Sys2Proof.Machine
end
